-- ==== Sys2Proof/Word.lean ====
section
/-! DEFINITION. Sys2Proof/Word.lean: the word types of the ECC CORE (spec/00_scope.md R7, R8). -/

namespace Sys2Proof

/-- A host bus word and a command word (R60, R90): 32 bits, bit 0 least significant (R8). -/
abbrev W32 := BitVec 32

/-- A 256-bit register value, in [0, 2^256 - 1], canonical or not (R7, R30). -/
abbrev W256 := BitVec 256

/-- One byte of the compressed-point buffer (R35). -/
abbrev Byte := BitVec 8

/-- A byte offset in the 4 KiB register window (R21, R60). -/
abbrev Offset := BitVec 12

end Sys2Proof
end

