-- ==== Sys2Proof/Config.lean ====
section
/-! DEFINITION. Sys2Proof/Config.lean: what is fixed for the machine (curve constants, ID) and the two values
the spec leaves free (the data read while BUSY = 1, the inverse of what has none). -/

namespace Sys2Proof.Config

/-- The field prime p = 2^256 - 2^32 - 977 (R2). -/
def p : Nat := 2 ^ 256 - 2 ^ 32 - 977

/-- The curve coefficient a of y² = x³ + a·x + b (R1). -/
def a : Nat := 0

/-- The curve coefficient b of y² = x³ + a·x + b (R1); the constants window reads it as CONST_B (R36). -/
def b : W256 := 7#256

/-- The x-coordinate of the generator G (R3). -/
def gx : W256 := 0x79BE667EF9DCBBAC55A06295CE870B07029BFCDB2DCE28D959F2815B16F81798#256

/-- The y-coordinate of the generator G (R3). -/
def gy : W256 := 0x483ADA7726A3C4655DA4FBFC0E1108A8FD17B448A68554199C47D08FFB10D4B8#256

/-- The order n of the generator (R4). No command reads it: it serves statements and tests only. -/
def n : Nat := 0xFFFFFFFFFFFFFFFFFFFFFFFFFFFFFFFEBAAEDCE6AF48A03BBFD25E8CD0364141

/-- R mod p for the Montgomery radix R = 2^256 (R5). -/
def rModP : W256 := 0x1000003D1#256

/-- R² mod p for the Montgomery radix R = 2^256 (R5). -/
def r2ModP : W256 := 0x1000007A2000E90A1#256

/-- R⁻¹ mod p for the Montgomery radix R = 2^256 (R5). -/
def rInv : W256 := 0xC9BD190515538399_9C46C2C295F2B761_BCB223FEDC24A059_D838091D0868192A#256

/-- The contents of the ID register (R22). -/
def idValue : W32 := 0x45430100#32

/-- FREE VALUE: the 32-bit word a host read of KSIGN, KMAG, F, P, J or CBUF returns while BUSY = 1 (R75, U1: "a draw
with no law"). It is applied to State.draws, which such a read advances, so that two reads draw two unrelated
words. No body: nothing can be proved about its values (log entry 2). -/
opaque busyRead : Nat → W32

/-- FREE VALUE: `inv_p` of a value that is 0 or not canonical, for which R7 states none. No command asks for it from a state
that a run reaches; it serves P and J contents that no run produces (log entry 7). No body. -/
opaque invOutside : W256 → W256

end Sys2Proof.Config
end

