-- ==== Sys2Proof/Machine/Arith.lean ====
section
/-! DEFINITION. Sys2Proof/Machine/Arith.lean: arithmetic modulo p (spec/00_scope.md R7, spec/40_field.md R113-R119). Operands
go to exact integers and the result is reduced once into [0, p - 1]; nothing wraps at 2^256 (R119). -/

namespace Sys2Proof.Machine

/-- A register value as a mathematical integer (R7). -/
def ival (x : W256) : Int := (x.toNat : Int)

/-- `a mod p`: the representative in [0, p - 1], non-negative for negative a (R7). -/
def modP (a : Int) : W256 := BitVec.ofNat 256 (a % (Config.p : Int)).toNat

/-- A value below p (R7). -/
def canonical (x : W256) : Bool := decide (x.toNat < Config.p)

/-- a^e mod m by squaring, for an exponent of at most `bits` bits. -/
def powMod (m a : Nat) : Nat → Nat → Nat
  | 0, _ => 1 % m
  | bits + 1, e =>
    let r := powMod m a bits (e / 2)
    if e % 2 = 1 then r * r % m * a % m else r * r % m

/-- x^e mod p, for e below 2^256. -/
def powP (x : W256) (e : Nat) : W256 := BitVec.ofNat 256 (powMod Config.p x.toNat 256 e)

/-- `inv_p(x)` (R7) for canonical x ≠ 0, by Fermat exponentiation x^(p-2), one of the two methods R115 allows; of any other
x a free value, since R7 states none (log entry 7). -/
def invP (x : W256) : W256 := if x.toNat = 0 ∨ Config.p ≤ x.toNat then Config.invOutside x else powP x (Config.p - 2)

/-- The square-root candidate x^((p+1)/4) mod p (R116). -/
def sqrtCandidate (x : W256) : W256 := powP x ((Config.p + 1) / 4)

/-- (c · c) mod p = x: the candidate is a root (R116, R176). -/
def isRootOf (c x : W256) : Bool := decide (modP (ival c * ival c) = x)

/-- R114: MonPro(x, y) = x · y · R⁻¹ mod p. -/
def monPro (x y : W256) : W256 := modP (ival x * ival y * ival Config.rInv)

/-- x³ + a·x + b mod p, the right side of the curve equation (R1, R176). -/
def curveRhs (x : W256) : W256 := modP (ival x * ival x * ival x + (Config.a : Int) * ival x + ival Config.b)

end Sys2Proof.Machine
end

