-- ==== Sys2Proof/Machine/State.lean ====
section
/-! DEFINITION. Sys2Proof/Machine/State.lean: the state of the block (spec/10_state.md R20), the host's part of the
model, the reasons a step can stop, and the state after reset (spec/70_reset_and_hazards.md R232). -/

namespace Sys2Proof.Machine

/-- A point value: the point at infinity or an affine pair (R20, R31). There is no third state. -/
inductive Point where
  | inf
  | aff (x y : W256)
deriving DecidableEq, Repr

/-- A Jacobian triple (R33, R150). -/
structure Jac where
  x : W256
  y : W256
  z : W256
deriving DecidableEq, Repr

/-- The canonical triple JINF = (0, 0, 0) of the point at infinity (R150). -/
def Jac.inf : Jac := ⟨0#256, 0#256, 0#256⟩

/-- The error kinds a command can end with (R200). Code 0 (NONE) is no error, and 8..15 are never produced. -/
inductive Err where
  /-- 1: constructed coordinates fail membership (PMK), or a zero root with prefix 0x03 (PDEC). -/
  | invalidPoint
  /-- 2: the element to invert is 0 (FINV, PADD). -/
  | noModularInverse
  /-- 3: x³ + 7 is a non-residue (PDEC). -/
  | noSquareRoot
  /-- 4: CBUF[0] is neither 0x02 nor 0x03 (PDEC). -/
  | invalidEncodingPrefix
  /-- 5: PENC of Inf. -/
  | encodingOfInfinityUnsupported
  /-- 6: a field operand, or a PDEC x, is at least p. -/
  | notCanonical
  /-- 7: the command word is not legal (R96). -/
  | illegalCommand
deriving DecidableEq, Repr

/-- The architectural state, field by field the tuple of R20. -/
structure Regs where
  /-- F0..F15 (R30). -/
  f : Vector W256 16
  /-- P0..P7 (R31). -/
  p : Vector Point 8
  /-- J0..J3 (R33). -/
  j : Vector Jac 4
  /-- The sign of K (R34). -/
  ksign : Bool
  /-- The magnitude of K (R34). -/
  kmag : W256
  /-- CBUF[0..32] in wire order (R35). -/
  cbuf : Vector Byte 33
  /-- CTRL.IRQEN (R23). -/
  irqen : Bool
  /-- STATUS.BUSY (R24). -/
  busy : Bool
  /-- STATUS.DONE (R27). -/
  done : Bool
  /-- STATUS.BOOL (R25). -/
  bool : Bool
  /-- STATUS.OVR (R28). -/
  ovr : Bool
  /-- STATUS.ERRCODE (R26). -/
  errcode : BitVec 4
  /-- CMD, the last accepted command word; while BUSY = 1, the command in progress (R29, R39). -/
  cmd : W32
deriving DecidableEq, Repr

/-- One host access as it stands on the ports we, addr, size and wdata (R60). -/
structure Access where
  /-- true = write, false = read. -/
  we : Bool
  addr : Offset
  /-- log2 of the access size in bytes. -/
  size : BitVec 2
  wdata : W32
deriving DecidableEq, Repr

/-- How a host access ended (R60): HostRead(off) -> (rdata, err), HostWrite(off, v) -> err. -/
inductive BusResult where
  | read (rdata : W32) (err : Bool)
  | write (err : Bool)
deriving DecidableEq, Repr

/-- One atomic step of the world (R76): who moves. The order of completion and host accesses is the schedule's (R205). -/
inductive Event where
  /-- The core agent gets its turn (R71, R73). -/
  | core
  /-- The host performs one access (R60, R72). -/
  | access (a : Access)
  /-- rst_n falls and rises again (R230). -/
  | hwReset
deriving DecidableEq, Repr

/-- The machine: the architectural state of R20 and, after it, the model's own fields. -/
structure State extends Regs where
  /-- What happens next, first element first: the inputs of the host and its schedule with the core (log entry 1). When it
  is empty, every later turn is the core's. -/
  agenda : List Event
  /-- The outcome of the last host access, on the ports rdata and err (R60); none before the first. -/
  bus : Option BusResult
  /-- How many unspecified words have been drawn (R75): the argument of the next draw of `Config.busyRead`. -/
  draws : Nat
deriving DecidableEq, Repr

/-- The reasons the machine stops with a fault. THERE ARE NONE: every command completes (R71, R73), no error is a trap
(R202), every host access is answered (R62-R64), and reset is a step (R230). An empty type, so that no step can fault. -/
inductive Fault where
deriving DecidableEq, Repr

/-- The reasons the model gives no meaning. -/
inductive Refusal where
  /-- Raised by an arm of `exec` whose command has no meaning yet; safe (the run stops). No arm raises it. -/
  | notModelled (mnemonic : String)
deriving DecidableEq, Repr

/-- R232: `ResetState`. -/
def Regs.reset : Regs where
  f := Vector.replicate 16 0#256
  p := Vector.replicate 8 .inf
  j := Vector.replicate 4 .inf
  ksign := false
  kmag := 0#256
  cbuf := Vector.replicate 33 0#8
  irqen := false
  busy := false
  done := false
  bool := false
  ovr := false
  errcode := 0#4
  cmd := 0#32

/-- The machine right after reset (R232): ResetState, with no access made and none planned. The last three are the
model's own fields (log entry 1). -/
def State.reset : State where
  toRegs := Regs.reset
  agenda := []
  bus := none
  draws := 0

end Sys2Proof.Machine
end

