-- ==== Sys2Proof/Machine/Curve.lean ====
section
/-! DEFINITION. Sys2Proof/Machine/Curve.lean: point values and the group law (spec/41_point.md R129-R134), Jacobian triples
(spec/42_jacobian.md R150-R154), scalar multiplication (spec/43_scalar.md R165). -/

namespace Sys2Proof.Machine

/-! ### Affine points -/

/-- R129: `OnCurve(x, y)`. -/
def onCurve (x y : W256) : Bool :=
  decide ((ival y * ival y - (ival x * ival x * ival x + (Config.a : Int) * ival x + ival Config.b)) % (Config.p : Int) = 0)

/-- R129: `IsOnCurve`. -/
def Point.isOnCurve : Point → Bool
  | .inf => true
  | .aff x y => onCurve x y

/-- The generator G (R3). -/
def generator : Point := .aff Config.gx Config.gy

/-- R132: `AffNeg`. -/
def affNeg : Point → Point
  | .inf => .inf
  | .aff x y => .aff x (modP ((Config.p : Int) - ival y))

/-- R133, R134: the third point of the line with slope l through (x1, _) and (x2, _), reflected:
xr = l·l - x1 - x2, yr = l·(x1 - xr) - y1. -/
def chord (l x1 y1 x2 : W256) : Point :=
  let xr := modP (ival l * ival l - ival x1 - ival x2)
  .aff xr (modP (ival l * (ival x1 - ival xr) - ival y1))

/-- R134: the tangent slope (3·x·x + a) · inv_p(2·y mod p) mod p. -/
def tangentSlope (x y : W256) : W256 :=
  modP ((3 * ival x * ival x + (Config.a : Int)) * ival (invP (modP (2 * ival y))))

/-- R133: the slope of the line through two points, with dx = (x2 - x1) mod p. -/
def secantSlope (y1 y2 dx : W256) : W256 :=
  modP (ival (modP (ival y2 - ival y1)) * ival (invP dx))

/-- R134: `AffDbl`. -/
def affDbl : Point → Point
  | .inf => .inf
  | .aff x y => if y = 0#256 then .inf else chord (tangentSlope x y) x y x

/-- R133: `AffAdd`, the cases in the document's precedence order. -/
def affAdd : Point → Point → Except Err Point
  | .inf, B => .ok B
  | A, .inf => .ok A
  | .aff x1 y1, .aff x2 y2 =>
    if x1 = x2 ∧ modP (ival y1 + ival y2) = 0#256 then .ok .inf
    else if x1 = x2 ∧ y1 = y2 then .ok (affDbl (.aff x1 y1))
    else
      let dx := modP (ival x2 - ival x1)
      if dx = 0#256 then .error .noModularInverse
      else .ok (chord (secantSlope y1 y2 dx) x1 y1 x2)

/-! ### Scalar multiplication -/

/-- R165: the loop of `SMul`, from bit `i - 1` of k down to bit 0. -/
def sMulLoop (k : Nat) (A : Point) : Nat → Point → Except Err Point
  | 0, acc => .ok acc
  | i + 1, acc =>
    match (if k.testBit i then affAdd (affDbl acc) A else .ok (affDbl acc)) with
    | .ok acc' => sMulLoop k A i acc'
    | .error e => .error e

/-- The number of bits of k (R165). -/
def bitlen (k : Nat) : Nat := if k = 0 then 0 else k.log2 + 1

/-- R165: `SMul` for a scalar that is not negative. -/
def sMulNat (k : Nat) (A : Point) : Except Err Point :=
  if k = 0 then .ok .inf
  else if k = 1 then .ok A
  else sMulLoop k A (bitlen k) .inf

/-- R165: `SMul(k, A)`. -/
def sMul (k : Int) (A : Point) : Except Err Point :=
  if k < 0 then sMulNat (-k).toNat (affNeg A) else sMulNat k.toNat A

/-! ### Jacobian triples -/

/-- R150: `Rep`, the point a triple stands for. -/
def Jac.rep (T : Jac) : Point :=
  if T.z = 0#256 then .inf
  else
    let zi := invP T.z
    .aff (modP (ival T.x * (ival zi * ival zi))) (modP (ival T.y * (ival zi * ival zi * ival zi)))

/-- R151: the triple JLD loads for a point. -/
def Jac.ofPoint : Point → Jac
  | .inf => .inf
  | .aff x y => ⟨x, y, 1#256⟩

/-- R153: `JDBL_f`. -/
def jacDbl (T : Jac) : Jac :=
  if T.z = 0#256 ∨ T.y = 0#256 then .inf
  else
    let S := modP (4 * ival T.x * (ival T.y * ival T.y))
    let M := modP (3 * (ival T.x * ival T.x))
    let X3 := modP (ival M * ival M - 2 * ival S)
    let Y3 := modP (ival M * (ival S - ival X3) - 8 * (ival T.y * ival T.y * ival T.y * ival T.y))
    let Z3 := modP (2 * ival T.y * ival T.z)
    ⟨X3, Y3, Z3⟩

/-- R152: the general case of the mixed addition, with the differences H and r. -/
def jacChord (T : Jac) (H r : W256) : Jac :=
  let HH := modP (ival H * ival H)
  let HHH := modP (ival H * ival HH)
  let V := modP (ival T.x * ival HH)
  let X3 := modP (ival r * ival r - ival HHH - 2 * ival V)
  let Y3 := modP (ival r * (ival V - ival X3) - ival T.y * ival HHH)
  let Z3 := modP (ival T.z * ival H)
  ⟨X3, Y3, Z3⟩

/-- R152: mixed addition, the cases in the rule's order. -/
def jacAdd (T : Jac) : Point → Jac
  | .inf => T
  | .aff x y =>
    if T.z = 0#256 then ⟨x, y, 1#256⟩
    else
      let Z1Z1 := modP (ival T.z * ival T.z)
      let U2 := modP (ival x * ival Z1Z1)
      let S2 := modP (ival y * ival T.z * ival Z1Z1)
      let H := modP (ival U2 - ival T.x)
      let r := modP (ival S2 - ival T.y)
      if H = 0#256 then
        if r = 0#256 then jacDbl T else .inf
      else jacChord T H r

end Sys2Proof.Machine
end

