-- ==== Sys2Proof/Machine/Flags.lean ====
section
/-! DEFINITION. Sys2Proof/Machine/Flags.lean: the STATUS word, the error codes, the BOOL flag and the interrupt line
(spec/10_state.md R24-R28, spec/60_exceptions.md R200, R207). No carry, overflow or sign flag exists (R119). -/

namespace Sys2Proof.Machine

/-- The numbers of the error kinds (R200). -/
def Err.code : Err → BitVec 4
  | .invalidPoint => 1#4
  | .noModularInverse => 2#4
  | .noSquareRoot => 3#4
  | .invalidEncodingPrefix => 4#4
  | .encodingOfInfinityUnsupported => 5#4
  | .notCanonical => 6#4
  | .illegalCommand => 7#4

/-- A flag as a one-bit word. -/
def bit (b : Bool) : BitVec 1 := BitVec.ofBool b

/-- STATUS.ERR is not stored: it is ERRCODE ≠ 0 (R26). -/
def Regs.err (r : Regs) : Bool := decide (r.errcode ≠ 0#4)

/-- The word a read of STATUS returns (R24). -/
def Regs.statusWord (r : Regs) : W32 :=
  0#20 ++ r.errcode ++ 0#3 ++ bit r.ovr ++ bit r.bool ++ bit r.err ++ bit r.done ++ bit r.busy

/-- R207: irq = IRQEN & DONE. -/
def Regs.irq (r : Regs) : Bool := r.irqen && r.done

/-- BOOL <- b (R9, R25). -/
def Regs.setBool (r : Regs) (b : Bool) : Regs := { r with bool := b }

end Sys2Proof.Machine
end

