-- ==== Sys2Proof/Machine/Ops.lean ====
section
/-! DEFINITION. Sys2Proof/Machine/Ops.lean: the named operations over the register files, issue, completion, the failed
completion that stands for an exception here, and reset. The block has no memory (R61): there is no memory operation. -/

namespace Sys2Proof.Machine

/-! ### The register files -/

/-- F[i] (R9, R30). -/
def Regs.getF (r : Regs) (i : Fin 16) : W256 := r.f[i.val]
/-- F[i] <- v (R9, R30). -/
def Regs.setF (r : Regs) (i : Fin 16) (v : W256) : Regs := { r with f := r.f.set i.val v }
/-- P[i] (R9, R31). -/
def Regs.getP (r : Regs) (i : Fin 8) : Point := r.p[i.val]
/-- P[i] <- A (R9, R31). -/
def Regs.setP (r : Regs) (i : Fin 8) (A : Point) : Regs := { r with p := r.p.set i.val A }
/-- J[i] (R9, R33). -/
def Regs.getJ (r : Regs) (i : Fin 4) : Jac := r.j[i.val]
/-- J[i] <- T (R9, R33). -/
def Regs.setJ (r : Regs) (i : Fin 4) (T : Jac) : Regs := { r with j := r.j.set i.val T }
/-- CBUF[b] (R9, R35). -/
def Regs.getC (r : Regs) (b : Fin 33) : Byte := r.cbuf[b.val]
/-- All of CBUF at once (PENC, R175). -/
def Regs.setCbuf (r : Regs) (c : Vector Byte 33) : Regs := { r with cbuf := c }

/-! ### The command lifecycle (spec/20_memory.md) -/

/-- R70: issue of the word v. Nothing else changes. -/
def State.issue (s : State) (v : W32) : State :=
  { s with cmd := v, done := false, errcode := 0#4, busy := true }

/-- What `Exec` gives for a command (R71): the registers with the result applied, or the error it raises. -/
abbrev Result := Except Err Regs

/-- R202, R203: a command ends with an error. This is what the spec has in the place of taking an exception (R208): no
state is saved, no control is transferred, and only ERRCODE, DONE and BUSY change. -/
def State.raiseErr (s : State) (e : Err) : State :=
  { s with errcode := e.code, done := true, busy := false }

/-- R71: a command ends with success; r holds the registers with its result applied. -/
def State.succeed (s : State) (r : Regs) : State :=
  { s with toRegs := { r with errcode := 0#4, done := true, busy := false } }

/-- R209: there is no return from an error. The host acknowledges it by clearing DONE (R27); ERRCODE stays until the next
issue. -/
def State.clearDone (s : State) : State := { s with done := false }

/-- R71: the completion step of a command whose `Exec` gives `out`. -/
def complete (s : State) (out : Result) : Host.Outcome State Fault Refusal :=
  match out with
  | .ok r => .next (s.succeed r)
  | .error e => .next (s.raiseErr e)

/-! ### Reset (spec/70_reset_and_hazards.md) -/

/-- R230, R231: every piece of architectural state to its reset value. The host's plan and the count of draws are no state
of the block and stay. -/
def State.resetRegs (s : State) : State := { s with toRegs := Regs.reset }

/-- R230: a pulse of rst_n. No access is answered by it. -/
def State.hwReset (s : State) : State := { s.resetRegs with bus := none }

end Sys2Proof.Machine
end

