-- ==== Sys2Proof/Syntax.lean ====
section
/-! DEFINITION. Sys2Proof/Syntax.lean: the command set (spec/30_encoding.md Table 30-2), one constructor per row of
spec/opcode_table.json. -/

namespace Sys2Proof

/-- The index of a field register F0..F15 (R30, R91): every 4-bit field value is an index. -/
abbrev FReg := Fin 16

/-- The index of a point register P0..P7 (R31, R91): a 4-bit field value of 8..15 is no index. -/
abbrev PReg := Fin 8

/-- The index of a Jacobian register J0..J3 (R33, R91): a 4-bit field value of 4..15 is no index. -/
abbrev JReg := Fin 4

/-- The 4-bit constant selector of FLDC as the command word carries it (R92): 0..6 select, 7..15 are reserved
(`Instr.wellFormed`). -/
abbrev Selector := BitVec 4

/-- A command. Operands stand in the order of Table 30-2's columns: rd, rs1, rs2, imm, the unused ones left out. -/
inductive Instr where
  /-- R190: null command. -/
  | nop
  /-- R111: F[rd] <- F[rs1] + F[rs2] mod p. -/
  | fadd (rd rs1 rs2 : FReg)
  /-- R112: F[rd] <- F[rs1] - F[rs2] mod p. -/
  | fsub (rd rs1 rs2 : FReg)
  /-- R113: F[rd] <- F[rs1] · F[rs2] mod p. -/
  | fmul (rd rs1 rs2 : FReg)
  /-- R114: F[rd] <- the Montgomery product of F[rs1] and F[rs2]. -/
  | mmul (rd rs1 rs2 : FReg)
  /-- R115: F[rd] <- the modular inverse of F[rs1]. -/
  | finv (rd rs1 : FReg)
  /-- R116: F[rd] <- a square root of F[rs1], BOOL <- whether there is one. -/
  | fsqrt (rd rs1 : FReg)
  /-- R117: F[rd] <- the constant that imm selects. -/
  | fldc (rd : FReg) (imm : Selector)
  /-- R130: P[rd] <- G. -/
  | pldg (rd : PReg)
  /-- R131: P[rd] <- the validated point (F[rs1], F[rs2]). -/
  | pmk (rd : PReg) (rs1 rs2 : FReg)
  /-- R132: P[rd] <- -P[rs1]. -/
  | pneg (rd rs1 : PReg)
  /-- R133: P[rd] <- P[rs1] + P[rs2]. -/
  | padd (rd rs1 rs2 : PReg)
  /-- R134: P[rd] <- 2·P[rs1]. -/
  | pdbl (rd rs1 : PReg)
  /-- R136: BOOL <- P[rs1] is on the curve. -/
  | pchk (rs1 : PReg)
  /-- R137: BOOL <- (F[rs1], F[rs2]) is on the curve. -/
  | pchkxy (rs1 rs2 : FReg)
  /-- R138: BOOL <- P[rs1] = P[rs2]. -/
  | peq (rs1 rs2 : PReg)
  /-- R151: J[rd] <- P[rs1] as a Jacobian triple. -/
  | jld (rd : JReg) (rs1 : PReg)
  /-- R152: J[rd] <- J[rs1] + P[rs2], mixed addition. -/
  | jadd (rd rs1 : JReg) (rs2 : PReg)
  /-- R153: J[rd] <- 2·J[rs1]. -/
  | jdbl (rd rs1 : JReg)
  /-- R154: P[rd] <- the point J[rs1] stands for. -/
  | jtoa (rd : PReg) (rs1 : JReg)
  /-- R165: P[rd] <- K·P[rs1]. -/
  | pmul (rd rs1 : PReg)
  /-- R175: CBUF <- the compressed encoding of P[rs1]. -/
  | penc (rs1 : PReg)
  /-- R176: P[rd] <- the point CBUF encodes. -/
  | pdec (rd : PReg)
deriving DecidableEq, Repr

end Sys2Proof
end

