-- ==== Sys2Proof/Machine/Operands.lean ====
section
/-! DEFINITION. Sys2Proof/Machine/Operands.lean: every operand form of the command set: F operands with the canonical check
(R110), the scalar K (R34), the constants of FLDC (R117), the compressed buffer (R35, R175, R176). P and J operands are
`Regs.getP` and `Regs.getJ`; they carry no check. -/

namespace Sys2Proof.Machine

/-- R110: `FOP(i)`. -/
def Regs.fop (r : Regs) (i : FReg) : Except Err W256 :=
  if canonical (r.getF i) then .ok (r.getF i) else .error .notCanonical

/-- R34: the scalar K = (-1)^KSIGN · KMAG. KSIGN = 1 with KMAG = 0 stands for 0. -/
def Regs.scalar (r : Regs) : Int := if r.ksign then -ival r.kmag else ival r.kmag

/-- R117: `CONST(c)`; a reserved selector is an illegal command (R92). -/
def constOf (c : Selector) : Except Err W256 :=
  match c.toNat with
  | 0 => .ok 0#256
  | 1 => .ok 1#256
  | 2 => .ok Config.b
  | 3 => .ok Config.gx
  | 4 => .ok Config.gy
  | 5 => .ok Config.rModP
  | 6 => .ok Config.r2ModP
  | _ => .error .illegalCommand

/-- Byte i of x in big-endian order, i = 0 the most significant: x[255 - 8·i : 248 - 8·i] (R175). -/
def byteBE (x : W256) (i : Nat) : Byte := x.extractLsb' (8 * (31 - i)) 8

/-- R175: the 33 bytes of a compressed point: the parity byte of y, then x big-endian. -/
def compressed (x y : W256) : Vector Byte 33 :=
  Vector.ofFn fun b : Fin 33 =>
    if b.val = 0 then (if y.toNat % 2 = 0 then 0x02#8 else 0x03#8) else byteBE x (b.val - 1)

/-- The value of bytes read most significant first: the sum of R176. -/
def beValue (bytes : List Byte) : Nat := bytes.foldl (fun acc b => acc * 256 + b.toNat) 0

/-- R176: the prefix byte CBUF[0]. -/
def Regs.cbufLead (r : Regs) : Byte := r.getC 0

/-- R176: x = Σ CBUF[1 + i] · 256^(31 - i). -/
def Regs.cbufX (r : Regs) : W256 := BitVec.ofNat 256 (beValue (r.cbuf.toList.drop 1))

end Sys2Proof.Machine
end

