-- ==== Sys2Proof/Machine/CodecCmds.lean ====
section
/-! DEFINITION. Sys2Proof/Machine/CodecCmds.lean: the compressed encoder and decoder (spec/44_codec.md R175, R176). -/

namespace Sys2Proof.Machine

/-- R175: PENC. On Inf no sentinel is written. -/
def runPenc (rs1 : PReg) (r : Regs) : Result :=
  match r.getP rs1 with
  | .inf => .error .encodingOfInfinityUnsupported
  | .aff x y => .ok (r.setCbuf (compressed x y))

/-- The completion of `runPenc` (R71). -/
def execPenc (rs1 : PReg) (s : State) : Host.Outcome State Fault Refusal :=
  complete s (runPenc rs1 s.toRegs)

/-- R176: the point a lead byte and an x encode; the checks in the rule's order. -/
def decompress (lead : Byte) (x : W256) : Except Err Point :=
  if lead ≠ 0x02#8 ∧ lead ≠ 0x03#8 then .error .invalidEncodingPrefix
  else if !canonical x then .error .notCanonical
  else
    let t := curveRhs x
    let c := sqrtCandidate t
    if !isRootOf c t then .error .noSquareRoot
    else if c.toNat % 2 = lead.toNat - 2 then .ok (.aff x c)
    else if c = 0#256 then .error .invalidPoint
    else .ok (.aff x (modP ((Config.p : Int) - ival c)))

/-- R176: PDEC. BOOL is not written. -/
def runPdec (rd : PReg) (r : Regs) : Result := do
  let A ← decompress r.cbufLead r.cbufX
  return r.setP rd A

/-- The completion of `runPdec` (R71). -/
def execPdec (rd : PReg) (s : State) : Host.Outcome State Fault Refusal :=
  complete s (runPdec rd s.toRegs)

end Sys2Proof.Machine
end

