-- ==== Sys2Proof/Machine/FieldCmds.lean ====
section
/-! DEFINITION. Sys2Proof/Machine/FieldCmds.lean: the field commands (spec/40_field.md R111-R117). -/

namespace Sys2Proof.Machine

/-- The shape of FADD, FSUB, FMUL and MMUL: two field operands, rs1 before rs2 (R110), one canonical result. -/
def fieldBinary (g : W256 → W256 → W256) (rd rs1 rs2 : FReg) (r : Regs) : Result := do
  let x ← r.fop rs1
  let y ← r.fop rs2
  return r.setF rd (g x y)

/-- R111: FADD. -/
def runFadd (rd rs1 rs2 : FReg) (r : Regs) : Result :=
  fieldBinary (fun x y => modP (ival x + ival y)) rd rs1 rs2 r

/-- The completion of `runFadd` (R71). -/
def execFadd (rd rs1 rs2 : FReg) (s : State) : Host.Outcome State Fault Refusal :=
  complete s (runFadd rd rs1 rs2 s.toRegs)

/-- R112: FSUB. -/
def runFsub (rd rs1 rs2 : FReg) (r : Regs) : Result :=
  fieldBinary (fun x y => modP (ival x - ival y)) rd rs1 rs2 r

/-- The completion of `runFsub` (R71). -/
def execFsub (rd rs1 rs2 : FReg) (s : State) : Host.Outcome State Fault Refusal :=
  complete s (runFsub rd rs1 rs2 s.toRegs)

/-- R113: FMUL. -/
def runFmul (rd rs1 rs2 : FReg) (r : Regs) : Result :=
  fieldBinary (fun x y => modP (ival x * ival y)) rd rs1 rs2 r

/-- The completion of `runFmul` (R71). -/
def execFmul (rd rs1 rs2 : FReg) (s : State) : Host.Outcome State Fault Refusal :=
  complete s (runFmul rd rs1 rs2 s.toRegs)

/-- R114: MMUL. -/
def runMmul (rd rs1 rs2 : FReg) (r : Regs) : Result :=
  fieldBinary monPro rd rs1 rs2 r

/-- The completion of `runMmul` (R71). -/
def execMmul (rd rs1 rs2 : FReg) (s : State) : Host.Outcome State Fault Refusal :=
  complete s (runMmul rd rs1 rs2 s.toRegs)

/-- R115: FINV. The canonical check comes before the zero check (R204). -/
def runFinv (rd rs1 : FReg) (r : Regs) : Result := do
  let x ← r.fop rs1
  if x = 0#256 then throw .noModularInverse
  return r.setF rd (invP x)

/-- The completion of `runFinv` (R71). -/
def execFinv (rd rs1 : FReg) (s : State) : Host.Outcome State Fault Refusal :=
  complete s (runFinv rd rs1 s.toRegs)

/-- R116: FSQRT. A non-residue is a success with BOOL = 0 and F[rd] unchanged. -/
def runFsqrt (rd rs1 : FReg) (r : Regs) : Result := do
  let x ← r.fop rs1
  let c := sqrtCandidate x
  if isRootOf c x then return (r.setF rd c).setBool true
  else return r.setBool false

/-- The completion of `runFsqrt` (R71). -/
def execFsqrt (rd rs1 : FReg) (s : State) : Host.Outcome State Fault Refusal :=
  complete s (runFsqrt rd rs1 s.toRegs)

/-- R117: FLDC. -/
def runFldc (rd : FReg) (imm : Selector) (r : Regs) : Result := do
  let v ← constOf imm
  return r.setF rd v

/-- The completion of `runFldc` (R71). -/
def execFldc (rd : FReg) (imm : Selector) (s : State) : Host.Outcome State Fault Refusal :=
  complete s (runFldc rd imm s.toRegs)

end Sys2Proof.Machine
end

