-- ==== Sys2Proof/Machine/JacobianCmds.lean ====
section
/-! DEFINITION. Sys2Proof/Machine/JacobianCmds.lean: the Jacobian commands (spec/42_jacobian.md R151-R154). -/

namespace Sys2Proof.Machine

/-- R151: JLD. -/
def runJld (rd : JReg) (rs1 : PReg) (r : Regs) : Result :=
  .ok (r.setJ rd (Jac.ofPoint (r.getP rs1)))

/-- The completion of `runJld` (R71). -/
def execJld (rd : JReg) (rs1 : PReg) (s : State) : Host.Outcome State Fault Refusal :=
  complete s (runJld rd rs1 s.toRegs)

/-- R152: JADD. -/
def runJadd (rd rs1 : JReg) (rs2 : PReg) (r : Regs) : Result :=
  .ok (r.setJ rd (jacAdd (r.getJ rs1) (r.getP rs2)))

/-- The completion of `runJadd` (R71). -/
def execJadd (rd rs1 : JReg) (rs2 : PReg) (s : State) : Host.Outcome State Fault Refusal :=
  complete s (runJadd rd rs1 rs2 s.toRegs)

/-- R153: JDBL. -/
def runJdbl (rd rs1 : JReg) (r : Regs) : Result :=
  .ok (r.setJ rd (jacDbl (r.getJ rs1)))

/-- The completion of `runJdbl` (R71). -/
def execJdbl (rd rs1 : JReg) (s : State) : Host.Outcome State Fault Refusal :=
  complete s (runJdbl rd rs1 s.toRegs)

/-- R154: JTOA. No membership check is made. -/
def runJtoa (rd : PReg) (rs1 : JReg) (r : Regs) : Result :=
  .ok (r.setP rd (r.getJ rs1).rep)

/-- The completion of `runJtoa` (R71). -/
def execJtoa (rd : PReg) (rs1 : JReg) (s : State) : Host.Outcome State Fault Refusal :=
  complete s (runJtoa rd rs1 s.toRegs)

end Sys2Proof.Machine
end

