-- ==== Sys2Proof/Machine/PointCmds.lean ====
section
/-! DEFINITION. Sys2Proof/Machine/PointCmds.lean: the affine point commands (spec/41_point.md R130-R138). -/

namespace Sys2Proof.Machine

/-- R130: PLDG. -/
def runPldg (rd : PReg) (r : Regs) : Result :=
  .ok (r.setP rd generator)

/-- The completion of `runPldg` (R71). -/
def execPldg (rd : PReg) (s : State) : Host.Outcome State Fault Refusal :=
  complete s (runPldg rd s.toRegs)

/-- R131: PMK. Both operands are checked before membership (R204). -/
def runPmk (rd : PReg) (rs1 rs2 : FReg) (r : Regs) : Result := do
  let x ← r.fop rs1
  let y ← r.fop rs2
  if onCurve x y then return r.setP rd (.aff x y)
  else throw .invalidPoint

/-- The completion of `runPmk` (R71). -/
def execPmk (rd : PReg) (rs1 rs2 : FReg) (s : State) : Host.Outcome State Fault Refusal :=
  complete s (runPmk rd rs1 rs2 s.toRegs)

/-- R132: PNEG. -/
def runPneg (rd rs1 : PReg) (r : Regs) : Result :=
  .ok (r.setP rd (affNeg (r.getP rs1)))

/-- The completion of `runPneg` (R71). -/
def execPneg (rd rs1 : PReg) (s : State) : Host.Outcome State Fault Refusal :=
  complete s (runPneg rd rs1 s.toRegs)

/-- R133: PADD. -/
def runPadd (rd rs1 rs2 : PReg) (r : Regs) : Result := do
  let A ← affAdd (r.getP rs1) (r.getP rs2)
  return r.setP rd A

/-- The completion of `runPadd` (R71). -/
def execPadd (rd rs1 rs2 : PReg) (s : State) : Host.Outcome State Fault Refusal :=
  complete s (runPadd rd rs1 rs2 s.toRegs)

/-- R134: PDBL. -/
def runPdbl (rd rs1 : PReg) (r : Regs) : Result :=
  .ok (r.setP rd (affDbl (r.getP rs1)))

/-- The completion of `runPdbl` (R71). -/
def execPdbl (rd rs1 : PReg) (s : State) : Host.Outcome State Fault Refusal :=
  complete s (runPdbl rd rs1 s.toRegs)

/-- R136: PCHK evaluates the equation on the register's contents. -/
def runPchk (rs1 : PReg) (r : Regs) : Result :=
  .ok (r.setBool (r.getP rs1).isOnCurve)

/-- The completion of `runPchk` (R71). -/
def execPchk (rs1 : PReg) (s : State) : Host.Outcome State Fault Refusal :=
  complete s (runPchk rs1 s.toRegs)

/-- R137: PCHKXY. -/
def runPchkxy (rs1 rs2 : FReg) (r : Regs) : Result := do
  let x ← r.fop rs1
  let y ← r.fop rs2
  return r.setBool (onCurve x y)

/-- The completion of `runPchkxy` (R71). -/
def execPchkxy (rs1 rs2 : FReg) (s : State) : Host.Outcome State Fault Refusal :=
  complete s (runPchkxy rs1 rs2 s.toRegs)

/-- R138: PEQ, structural equality (R129). -/
def runPeq (rs1 rs2 : PReg) (r : Regs) : Result :=
  .ok (r.setBool (decide (r.getP rs1 = r.getP rs2)))

/-- The completion of `runPeq` (R71). -/
def execPeq (rs1 rs2 : PReg) (s : State) : Host.Outcome State Fault Refusal :=
  complete s (runPeq rs1 rs2 s.toRegs)

end Sys2Proof.Machine
end

