-- ==== Sys2Proof/Machine/ScalarCmds.lean ====
section
/-! DEFINITION. Sys2Proof/Machine/ScalarCmds.lean: scalar multiplication (spec/43_scalar.md R165). -/

namespace Sys2Proof.Machine

/-- R165: PMUL. The scalar is K, and it is not reduced. -/
def runPmul (rd rs1 : PReg) (r : Regs) : Result := do
  let A ← sMul r.scalar (r.getP rs1)
  return r.setP rd A

/-- The completion of `runPmul` (R71). -/
def execPmul (rd rs1 : PReg) (s : State) : Host.Outcome State Fault Refusal :=
  complete s (runPmul rd rs1 s.toRegs)

end Sys2Proof.Machine
end

