-- ==== Sys2Proof/Machine/SystemCmds.lean ====
section
/-! DEFINITION. Sys2Proof/Machine/SystemCmds.lean: NOP (spec/45_system.md R190) and the completion of an illegal word
(spec/30_encoding.md R96). The set has no control transfer, no load or store and no system command (R191-R193). -/

namespace Sys2Proof.Machine

/-- R190: NOP has no effect on F, P, J, K, CBUF or BOOL; it completes like every command. -/
def runNop (r : Regs) : Result :=
  .ok r

/-- The completion of `runNop` (R71). -/
def execNop (s : State) : Host.Outcome State Fault Refusal :=
  complete s (runNop s.toRegs)

/-- R96: the completion of a word that is not legal. -/
def execIllegal (s : State) : Host.Outcome State Fault Refusal := complete s (.error .illegalCommand)

end Sys2Proof.Machine
end

