-- ==== Sys2Proof/Machine/Dispatch.lean ====
section
/-! DEFINITION. Sys2Proof/Machine/Dispatch.lean: one arm per command of Table 30-2. -/

namespace Sys2Proof.Machine

def exec (i : Instr) (s : State) : Host.Outcome State Fault Refusal :=
  match i with
  | .nop => Sys2Proof.Machine.execNop s
  | .fadd rd rs1 rs2 => Sys2Proof.Machine.execFadd rd rs1 rs2 s
  | .fsub rd rs1 rs2 => Sys2Proof.Machine.execFsub rd rs1 rs2 s
  | .fmul rd rs1 rs2 => Sys2Proof.Machine.execFmul rd rs1 rs2 s
  | .mmul rd rs1 rs2 => Sys2Proof.Machine.execMmul rd rs1 rs2 s
  | .finv rd rs1 => Sys2Proof.Machine.execFinv rd rs1 s
  | .fsqrt rd rs1 => Sys2Proof.Machine.execFsqrt rd rs1 s
  | .fldc rd imm => Sys2Proof.Machine.execFldc rd imm s
  | .pldg rd => Sys2Proof.Machine.execPldg rd s
  | .pmk rd rs1 rs2 => Sys2Proof.Machine.execPmk rd rs1 rs2 s
  | .pneg rd rs1 => Sys2Proof.Machine.execPneg rd rs1 s
  | .padd rd rs1 rs2 => Sys2Proof.Machine.execPadd rd rs1 rs2 s
  | .pdbl rd rs1 => Sys2Proof.Machine.execPdbl rd rs1 s
  | .pchk rs1 => Sys2Proof.Machine.execPchk rs1 s
  | .pchkxy rs1 rs2 => Sys2Proof.Machine.execPchkxy rs1 rs2 s
  | .peq rs1 rs2 => Sys2Proof.Machine.execPeq rs1 rs2 s
  | .jld rd rs1 => Sys2Proof.Machine.execJld rd rs1 s
  | .jadd rd rs1 rs2 => Sys2Proof.Machine.execJadd rd rs1 rs2 s
  | .jdbl rd rs1 => Sys2Proof.Machine.execJdbl rd rs1 s
  | .jtoa rd rs1 => Sys2Proof.Machine.execJtoa rd rs1 s
  | .pmul rd rs1 => Sys2Proof.Machine.execPmul rd rs1 s
  | .penc rs1 => Sys2Proof.Machine.execPenc rs1 s
  | .pdec rd => Sys2Proof.Machine.execPdec rd s

end Sys2Proof.Machine
end

