-- ==== Sys2Proof/WellFormed.lean ====
section
/-! DEFINITION. Sys2Proof/WellFormed.lean: which terms of `Instr` are commands. The index bounds of R91 are carried by
the operand types (an index out of range cannot be written; the decoder refuses its word); the one check left is that
of the FLDC selector (R92). -/

namespace Sys2Proof

/-- R92: the selectors are 0..6, and 7..15 are reserved. -/
def Selector.legal (c : Selector) : Bool := decide (c.toNat ≤ 6)

/-- A command of Table 30-2 with legal operands (R91, R92). -/
def Instr.wellFormed : Instr → Bool
  | .nop => true
  | .fadd _ _ _ => true
  | .fsub _ _ _ => true
  | .fmul _ _ _ => true
  | .mmul _ _ _ => true
  | .finv _ _ => true
  | .fsqrt _ _ => true
  | .fldc _ c => Selector.legal c
  | .pldg _ => true
  | .pmk _ _ _ => true
  | .pneg _ _ => true
  | .padd _ _ _ => true
  | .pdbl _ _ => true
  | .pchk _ => true
  | .pchkxy _ _ => true
  | .peq _ _ => true
  | .jld _ _ => true
  | .jadd _ _ _ => true
  | .jdbl _ _ => true
  | .jtoa _ _ => true
  | .pmul _ _ => true
  | .penc _ => true
  | .pdec _ => true

end Sys2Proof
end

