-- ==== Sys2Proof/Decode.lean ====
section
/-! DEFINITION. Sys2Proof/Decode.lean: the command word (spec/30_encoding.md R90-R98): fields, decoder, encoder, and the
legality predicate of R96 written out from Table 30-2 on its own. -/

namespace Sys2Proof

/-! ### The fields of format C (R90) -/

/-- Bits 7:0, the opcode. -/
def opOf (w : W32) : BitVec 8 := w.extractLsb' 0 8
/-- Bits 11:8, the destination register index. -/
def rdOf (w : W32) : BitVec 4 := w.extractLsb' 8 4
/-- Bits 15:12, the first source register index. -/
def rs1Of (w : W32) : BitVec 4 := w.extractLsb' 12 4
/-- Bits 19:16, the second source register index. -/
def rs2Of (w : W32) : BitVec 4 := w.extractLsb' 16 4
/-- Bits 23:20, the immediate. -/
def immOf (w : W32) : BitVec 4 := w.extractLsb' 20 4
/-- Bits 31:24, reserved. -/
def rsvOf (w : W32) : BitVec 8 := w.extractLsb' 24 8

/-- The word with the given fields and reserved bits 0 (R93, R95):
(rs2 << 16) | (rs1 << 12) | (rd << 8) | op | (imm << 20). -/
def mkWord (op : BitVec 8) (rd rs1 rs2 imm : BitVec 4) : W32 :=
  (rs2.setWidth 32 <<< 16) ||| (rs1.setWidth 32 <<< 12) ||| (rd.setWidth 32 <<< 8) ||| op.setWidth 32 |||
    (imm.setWidth 32 <<< 20)

/-! ### The decoder -/

/-- Why a word is illegal. The machine reports every one of them as ILLEGAL_COMMAND (R96). -/
inductive Reject where
  /-- R93: a bit of rsv is set. -/
  | reservedBitsSet
  /-- R97: the opcode is not in Table 30-2. -/
  | reservedOpcode
  /-- R94: a field the opcode does not use is not 0. -/
  | unusedFieldSet
  /-- R91: a point register index of 8..15. -/
  | pointIndexOutOfRange
  /-- R91: a Jacobian register index of 4..15. -/
  | jacobianIndexOutOfRange
  /-- R92: an FLDC selector of 7..15. -/
  | reservedSelector
deriving DecidableEq, Repr

/-- A 4-bit field as an F index: zero-extended, every value legal (R91). -/
def fField (x : BitVec 4) : FReg := x.toFin

/-- A 4-bit field as a P index (R91). -/
def pField (x : BitVec 4) : Except Reject PReg :=
  if h : x.toNat < 8 then .ok ⟨x.toNat, h⟩ else .error .pointIndexOutOfRange

/-- A 4-bit field as a J index (R91). -/
def jField (x : BitVec 4) : Except Reject JReg :=
  if h : x.toNat < 4 then .ok ⟨x.toNat, h⟩ else .error .jacobianIndexOutOfRange

/-- A 4-bit field as an FLDC selector (R92). -/
def selField (x : BitVec 4) : Except Reject Selector :=
  if Selector.legal x then .ok x else .error .reservedSelector

/-- A field the opcode does not use (R94). -/
def unused (x : BitVec 4) : Except Reject Unit :=
  if x = 0#4 then .ok () else .error .unusedFieldSet

/-- The command a word stands for, or why it stands for none (R90-R98). Total on all 2^32 words (R97). The arms are
Table 30-2. -/
def decodeWord (w : W32) : Except Reject Instr := do
  if rsvOf w ≠ 0#8 then throw .reservedBitsSet
  let rd := rdOf w
  let rs1 := rs1Of w
  let rs2 := rs2Of w
  let imm := immOf w
  match (opOf w).toNat with
  | 0x00 => do unused rd; unused rs1; unused rs2; unused imm; return .nop
  | 0x10 => do unused imm; return .fadd (fField rd) (fField rs1) (fField rs2)
  | 0x11 => do unused imm; return .fsub (fField rd) (fField rs1) (fField rs2)
  | 0x12 => do unused imm; return .fmul (fField rd) (fField rs1) (fField rs2)
  | 0x13 => do unused imm; return .mmul (fField rd) (fField rs1) (fField rs2)
  | 0x14 => do unused rs2; unused imm; return .finv (fField rd) (fField rs1)
  | 0x15 => do unused rs2; unused imm; return .fsqrt (fField rd) (fField rs1)
  | 0x16 => do unused rs1; unused rs2; return .fldc (fField rd) (← selField imm)
  | 0x20 => do unused rs1; unused rs2; unused imm; return .pldg (← pField rd)
  | 0x21 => do unused imm; return .pmk (← pField rd) (fField rs1) (fField rs2)
  | 0x22 => do unused rs2; unused imm; return .pneg (← pField rd) (← pField rs1)
  | 0x23 => do unused imm; return .padd (← pField rd) (← pField rs1) (← pField rs2)
  | 0x24 => do unused rs2; unused imm; return .pdbl (← pField rd) (← pField rs1)
  | 0x25 => do unused rd; unused rs2; unused imm; return .pchk (← pField rs1)
  | 0x26 => do unused rd; unused imm; return .pchkxy (fField rs1) (fField rs2)
  | 0x27 => do unused rd; unused imm; return .peq (← pField rs1) (← pField rs2)
  | 0x30 => do unused rs2; unused imm; return .jld (← jField rd) (← pField rs1)
  | 0x31 => do unused imm; return .jadd (← jField rd) (← jField rs1) (← pField rs2)
  | 0x32 => do unused rs2; unused imm; return .jdbl (← jField rd) (← jField rs1)
  | 0x33 => do unused rs2; unused imm; return .jtoa (← pField rd) (← jField rs1)
  | 0x40 => do unused rs2; unused imm; return .pmul (← pField rd) (← pField rs1)
  | 0x50 => do unused rd; unused rs2; unused imm; return .penc (← pField rs1)
  | 0x51 => do unused rs1; unused rs2; unused imm; return .pdec (← pField rd)
  | _ => throw .reservedOpcode

/-- The command a word stands for, if any. -/
def decode (w : W32) : Option Instr := (decodeWord w).toOption

/-! ### The encoder -/

/-- The 4-bit field that carries a register index (R91). -/
def idx {n : Nat} (i : Fin n) : BitVec 4 := BitVec.ofNat 4 i.val

/-- The word of a command (R95), unused fields 0 (R94). -/
def encode : Instr → W32
  | .nop => mkWord 0x00 0 0 0 0
  | .fadd rd rs1 rs2 => mkWord 0x10 (idx rd) (idx rs1) (idx rs2) 0
  | .fsub rd rs1 rs2 => mkWord 0x11 (idx rd) (idx rs1) (idx rs2) 0
  | .fmul rd rs1 rs2 => mkWord 0x12 (idx rd) (idx rs1) (idx rs2) 0
  | .mmul rd rs1 rs2 => mkWord 0x13 (idx rd) (idx rs1) (idx rs2) 0
  | .finv rd rs1 => mkWord 0x14 (idx rd) (idx rs1) 0 0
  | .fsqrt rd rs1 => mkWord 0x15 (idx rd) (idx rs1) 0 0
  | .fldc rd imm => mkWord 0x16 (idx rd) 0 0 imm
  | .pldg rd => mkWord 0x20 (idx rd) 0 0 0
  | .pmk rd rs1 rs2 => mkWord 0x21 (idx rd) (idx rs1) (idx rs2) 0
  | .pneg rd rs1 => mkWord 0x22 (idx rd) (idx rs1) 0 0
  | .padd rd rs1 rs2 => mkWord 0x23 (idx rd) (idx rs1) (idx rs2) 0
  | .pdbl rd rs1 => mkWord 0x24 (idx rd) (idx rs1) 0 0
  | .pchk rs1 => mkWord 0x25 0 (idx rs1) 0 0
  | .pchkxy rs1 rs2 => mkWord 0x26 0 (idx rs1) (idx rs2) 0
  | .peq rs1 rs2 => mkWord 0x27 0 (idx rs1) (idx rs2) 0
  | .jld rd rs1 => mkWord 0x30 (idx rd) (idx rs1) 0 0
  | .jadd rd rs1 rs2 => mkWord 0x31 (idx rd) (idx rs1) (idx rs2) 0
  | .jdbl rd rs1 => mkWord 0x32 (idx rd) (idx rs1) 0 0
  | .jtoa rd rs1 => mkWord 0x33 (idx rd) (idx rs1) 0 0
  | .pmul rd rs1 => mkWord 0x40 (idx rd) (idx rs1) 0 0
  | .penc rs1 => mkWord 0x50 0 (idx rs1) 0 0
  | .pdec rd => mkWord 0x51 (idx rd) 0 0 0

/-! ### Legality, as R96 writes it -/

/-- The kind Table 30-2 gives a register field: F, P, J or unused (R91). -/
inductive Kind where
  | f | p | j | none
deriving DecidableEq, Repr

/-- The kinds of rd, rs1 and rs2 for each opcode of Table 30-2 (R95). -/
def kinds (op : Nat) : Option (Kind × Kind × Kind) :=
  match op with
  | 0x00 => some (.none, .none, .none)
  | 0x10 => some (.f, .f, .f)
  | 0x11 => some (.f, .f, .f)
  | 0x12 => some (.f, .f, .f)
  | 0x13 => some (.f, .f, .f)
  | 0x14 => some (.f, .f, .none)
  | 0x15 => some (.f, .f, .none)
  | 0x16 => some (.f, .none, .none)
  | 0x20 => some (.p, .none, .none)
  | 0x21 => some (.p, .f, .f)
  | 0x22 => some (.p, .p, .none)
  | 0x23 => some (.p, .p, .p)
  | 0x24 => some (.p, .p, .none)
  | 0x25 => some (.none, .p, .none)
  | 0x26 => some (.none, .f, .f)
  | 0x27 => some (.none, .p, .p)
  | 0x30 => some (.j, .p, .none)
  | 0x31 => some (.j, .j, .p)
  | 0x32 => some (.j, .j, .none)
  | 0x33 => some (.p, .j, .none)
  | 0x40 => some (.p, .p, .none)
  | 0x50 => some (.none, .p, .none)
  | 0x51 => some (.p, .none, .none)
  | _ => none

/-- The values a field of a kind may hold (R91, R94). -/
def Kind.admits : Kind → BitVec 4 → Bool
  | .f, _ => true
  | .p, x => decide (x.toNat < 8)
  | .j, x => decide (x.toNat < 4)
  | .none, x => decide (x = 0#4)

/-- R96: `Legal(w)`. -/
def Legal (w : W32) : Bool :=
  decide (rsvOf w = 0#8) &&
  (match kinds (opOf w).toNat with
   | some (kd, k1, k2) => kd.admits (rdOf w) && k1.admits (rs1Of w) && k2.admits (rs2Of w)
   | none => false) &&
  (if (opOf w).toNat = 0x16 then decide ((immOf w).toNat ≤ 6) else decide (immOf w = 0#4))

/-! ### The host's question -/

/-- The word of a table row: its nbits low bits, every bit above them 0. -/
def tableWord (nbits w : Nat) : W32 := BitVec.ofNat 32 (w % 2 ^ nbits)

/-- What the decoder reads from an instruction whose bits are w, numbered as spec/opcode_table.json numbers them. Every
command is one 32-bit word (R90, R98), and the word written to CMD is the word executed (R79): no byte order arises. -/
def decodeTableWord (nbits w : Nat) : Option Instr := decode (tableWord nbits w)

end Sys2Proof
end

