-- ==== Sys2Proof/Machine/Turn.lean ====
section
/-! DEFINITION. Sys2Proof/Machine/Turn.lean: the core agent's step (spec/20_memory.md R71). -/

namespace Sys2Proof.Machine

/-- R71, R96: `Exec(state, CMD)` and its completion: the command of the word, or ILLEGAL_COMMAND for a word that is not
legal. -/
def execWord (s : State) (w : W32) : Host.Outcome State Fault Refusal :=
  match decode w with
  | some i => exec i s
  | none => execIllegal s

/-- The core's turn: the completion step while BUSY = 1 (R71), nothing while BUSY = 0. -/
def coreTurn (s : State) : Host.Outcome State Fault Refusal :=
  if s.busy then execWord s s.cmd else .next s

end Sys2Proof.Machine
end

