-- ==== Sys2Proof/Machine/Window.lean ====
section
/-! DEFINITION. Sys2Proof/Machine/Window.lean: the register window (spec/10_state.md R21-R37) and the host's accesses to it
(spec/20_memory.md R60-R66, R70, R74, R75). -/

namespace Sys2Proof.Machine

/-! ### Table 10-1 -/

/-- The register word an aligned offset names. A 256-bit register is eight words (R21). -/
inductive Loc where
  | id
  | ctrl
  | status
  | cmd
  | ksign
  | kmag (w : Fin 8)
  | f (i : Fin 16) (w : Fin 8)
  | px (i : Fin 8) (w : Fin 8)
  | py (i : Fin 8) (w : Fin 8)
  | ptag (i : Fin 8)
  | jx (i : Fin 4) (w : Fin 8)
  | jy (i : Fin 4) (w : Fin 8)
  | jz (i : Fin 4) (w : Fin 8)
  | cbuf (k : Fin 9)
  | constP (w : Fin 8)
  | constGx (w : Fin 8)
  | constGy (w : Fin 8)
  | constB (w : Fin 8)
  | reserved
deriving DecidableEq, Repr

/-- The word of the point register i at byte d of its 0x80 bytes (R32). -/
def locateP (i : Fin 8) (d : Nat) : Loc :=
  if d < 0x20 then .px i (Fin.ofNat 8 (d / 4))
  else if d < 0x40 then .py i (Fin.ofNat 8 ((d - 0x20) / 4))
  else if d < 0x44 then .ptag i
  else .reserved

/-- The word of the Jacobian register i at byte d of its 0x80 bytes (R33). -/
def locateJ (i : Fin 4) (d : Nat) : Loc :=
  if d < 0x20 then .jx i (Fin.ofNat 8 (d / 4))
  else if d < 0x40 then .jy i (Fin.ofNat 8 ((d - 0x20) / 4))
  else if d < 0x60 then .jz i (Fin.ofNat 8 ((d - 0x40) / 4))
  else .reserved

/-- Table 10-1, row by row, for a word-aligned offset o. -/
def locateNat (o : Nat) : Loc :=
  if o < 0x004 then .id
  else if o < 0x008 then .ctrl
  else if o < 0x00C then .status
  else if o < 0x010 then .cmd
  else if o < 0x014 then .ksign
  else if o < 0x020 then .reserved
  else if o < 0x040 then .kmag (Fin.ofNat 8 ((o - 0x020) / 4))
  else if o < 0x100 then .reserved
  else if o < 0x300 then .f (Fin.ofNat 16 ((o - 0x100) / 0x20)) (Fin.ofNat 8 ((o - 0x100) % 0x20 / 4))
  else if o < 0x700 then locateP (Fin.ofNat 8 ((o - 0x300) / 0x80)) ((o - 0x300) % 0x80)
  else if o < 0x900 then locateJ (Fin.ofNat 4 ((o - 0x700) / 0x80)) ((o - 0x700) % 0x80)
  else if o < 0x924 then .cbuf (Fin.ofNat 9 ((o - 0x900) / 4))
  else if o < 0xA00 then .reserved
  else if o < 0xA20 then .constP (Fin.ofNat 8 ((o - 0xA00) / 4))
  else if o < 0xA40 then .constGx (Fin.ofNat 8 ((o - 0xA20) / 4))
  else if o < 0xA60 then .constGy (Fin.ofNat 8 ((o - 0xA40) / 4))
  else if o < 0xA80 then .constB (Fin.ofNat 8 ((o - 0xA60) / 4))
  else .reserved

/-- The register word at a window offset (R21). -/
def locate (o : Offset) : Loc := locateNat o.toNat

/-! ### Words of wider registers -/

/-- Word w of a 256-bit value: bits [32·w + 31 : 32·w] (R21). -/
def wordOf (x : W256) (w : Fin 8) : W32 := x.extractLsb' (32 * w.val) 32

/-- x with word w replaced by v (R21). -/
def setWord (x : W256) (w : Fin 8) (v : W32) : W256 :=
  (x &&& ~~~((0xFFFFFFFF#256) <<< (32 * w.val))) ||| (v.setWidth 256 <<< (32 * w.val))

/-- Byte m of CBUF word k, or 0 past CBUF[32] (R35). -/
def cbufByte (buf : Vector Byte 33) (k : Fin 9) (m : Nat) : Byte :=
  if h : 4 * k.val + m < 33 then buf[4 * k.val + m] else 0#8

/-- Host word k of CBUF: byte 4k + m in bits [8m+7 : 8m] (R35, R66). -/
def cbufWord (c : Vector Byte 33) (k : Fin 9) : W32 := cbufByte c k 3 ++ cbufByte c k 2 ++ cbufByte c k 1 ++ cbufByte c k 0

/-- CBUF with host word k written; bytes past CBUF[32] are ignored (R35). -/
def setCbufWord (c : Vector Byte 33) (k : Fin 9) (v : W32) : Vector Byte 33 :=
  (((c.setIfInBounds (4 * k.val) (v.extractLsb' 0 8)).setIfInBounds (4 * k.val + 1) (v.extractLsb' 8 8)).setIfInBounds
    (4 * k.val + 2) (v.extractLsb' 16 8)).setIfInBounds (4 * k.val + 3) (v.extractLsb' 24 8)

/-! ### Reading -/

/-- The host's view of x of a point: 0 for Inf (R32). -/
def Point.xView : Point → W256
  | .inf => 0#256
  | .aff x _ => x

/-- The host's view of y of a point: 0 for Inf (R32). -/
def Point.yView : Point → W256
  | .inf => 0#256
  | .aff _ y => y

/-- TAG: 1 for Inf, 0 for Aff (R32). -/
def Point.tagView : Point → W32
  | .inf => 1#32
  | .aff _ _ => 0#32

/-- The contents of a register word (R22-R37). -/
def Regs.readLoc (r : Regs) : Loc → W32
  | .id => Config.idValue
  | .ctrl => (bit r.irqen).setWidth 32
  | .status => r.statusWord
  | .cmd => r.cmd
  | .ksign => (bit r.ksign).setWidth 32
  | .kmag w => wordOf r.kmag w
  | .f i w => wordOf (r.getF i) w
  | .px i w => wordOf (r.getP i).xView w
  | .py i w => wordOf (r.getP i).yView w
  | .ptag i => (r.getP i).tagView
  | .jx i w => wordOf (r.getJ i).x w
  | .jy i w => wordOf (r.getJ i).y w
  | .jz i w => wordOf (r.getJ i).z w
  | .cbuf k => cbufWord r.cbuf k
  | .constP w => wordOf (BitVec.ofNat 256 Config.p) w
  | .constGx w => wordOf Config.gx w
  | .constGy w => wordOf Config.gy w
  | .constB w => wordOf Config.b w
  | .reserved => 0#32

/-- The data windows, whose reads are unspecified while BUSY = 1 (R63, R75): KSIGN, KMAG, F, P, J, CBUF. -/
def Loc.isData : Loc → Bool
  | .id => false
  | .ctrl => false
  | .status => false
  | .cmd => false
  | .ksign => true
  | .kmag _ => true
  | .f _ _ => true
  | .px _ _ => true
  | .py _ _ => true
  | .ptag _ => true
  | .jx _ _ => true
  | .jy _ _ => true
  | .jz _ _ => true
  | .cbuf _ => true
  | .constP _ => false
  | .constGx _ => false
  | .constGy _ => false
  | .constB _ => false
  | .reserved => false

/-- An admitted read (R63): exact, but a fresh unspecified word for a data window while BUSY = 1 (R75). It changes no
architectural state. -/
def State.readAt (s : State) (l : Loc) : State :=
  if s.busy && l.isData then { s with bus := some (.read (Config.busyRead s.draws) false), draws := s.draws + 1 }
  else { s with bus := some (.read (s.toRegs.readLoc l) false) }

/-! ### Writing -/

/-- A write to an interlocked register (R74): performed while BUSY = 0, dropped with OVR <- 1 while BUSY = 1. -/
def State.interlocked (s : State) (performed : State) : State :=
  if s.busy then { s with ovr := true } else performed

/-- R23, R231: a write of CTRL. SRST wins over IRQEN. -/
def State.writeCtrl (s : State) (v : W32) : State :=
  if v[1] then s.resetRegs else { s with irqen := v[0] }

/-- R24: a write of STATUS clears DONE (R27) and OVR (R28) where v has a 1. -/
def State.writeStatus (s : State) (v : W32) : State :=
  let s1 := if v[1] then s.clearDone else s
  if v[4] then { s1 with ovr := false } else s1

/-- An admitted write's effect on the registers (R64). -/
def State.writeLoc (s : State) (l : Loc) (v : W32) : State :=
  match l with
  | .id => s
  | .ctrl => s.writeCtrl v
  | .status => s.writeStatus v
  | .cmd => s.interlocked (s.issue v)
  | .ksign => s.interlocked { s with ksign := v[0] }
  | .kmag w => s.interlocked { s with kmag := setWord s.kmag w v }
  | .f i w => s.interlocked { s with toRegs := s.toRegs.setF i (setWord (s.toRegs.getF i) w v) }
  | .px _ _ => s
  | .py _ _ => s
  | .ptag _ => s
  | .jx _ _ => s
  | .jy _ _ => s
  | .jz _ _ => s
  | .cbuf k => s.interlocked { s with toRegs := s.toRegs.setCbuf (setCbufWord s.cbuf k v) }
  | .constP _ => s
  | .constGx _ => s
  | .constGy _ => s
  | .constB _ => s
  | .reserved => s

/-- An admitted write, with its acknowledgement. -/
def State.writeAt (s : State) (l : Loc) (v : W32) : State :=
  { s.writeLoc l v with bus := some (.write false) }

/-! ### One access -/

/-- R62: the only access admitted is 32 bits wide at a word-aligned offset. -/
def Access.admitted (a : Access) : Bool := decide (a.size = 2#2) && decide (a.addr.extractLsb' 0 2 = 0#2)

/-- R62: how a refused access ends (`BusError`): err = 1, rdata = 0, no state changes. -/
def Access.refusal (a : Access) : BusResult := if a.we then .write true else .read 0#32 true

/-- One host access, one atomic step (R60, R62-R65). -/
def State.access (s : State) (a : Access) : State :=
  if a.admitted then
    if a.we then s.writeAt (locate a.addr) a.wdata else s.readAt (locate a.addr)
  else { s with bus := some a.refusal }

end Sys2Proof.Machine
end

