-- ==== Sys2Proof/Machine/Step.lean ====
section
/-! DEFINITION. Sys2Proof/Machine/Step.lean: one step of the machine, and how the host's question places a command. -/

namespace Sys2Proof.Machine

/-- One atomic step (R76): the first event of the agenda, or the core's turn when nothing else is planned. -/
def step (s : State) : Host.Outcome State Fault Refusal :=
  match s.agenda with
  | [] => coreTurn s
  | .core :: rest => coreTurn { s with agenda := rest }
  | .access a :: rest => .next (State.access { s with agenda := rest } a)
  | .hwReset :: rest => .next (State.hwReset { s with agenda := rest })

/-- s with the command word issued (R70) and the core's turn next: the very next step completes that command. It stands
for the host's write of CMD (log entry 3). -/
def State.withFetchWord (s : State) (nbits w : Nat) : State :=
  { s.issue (tableWord nbits w) with agenda := .core :: s.agenda }

end Sys2Proof.Machine
end

