-- ==== Sys2Proof/Machine/Pseudo.lean ====
section
/-! DEFINITION. Sys2Proof/Machine/Pseudo.lean: the assembler's pseudo-instructions (spec/30_encoding.md R100). -/

namespace Sys2Proof.Machine

/-- The pseudo-instructions of R100, operands in the order of its table. -/
inductive Pseudo where
  | fsqr (fd fa : FReg)
  | fdbl (fd fa : FReg)
  | fmov (fd fa ft : FReg)
  | fneg (fd fa ft : FReg)
  | fdiv (fd fa fb ft : FReg)
  | tomont (fd fa ft : FReg)
  | frommont (fd fa ft : FReg)
  | pmov (pd ps : PReg)
  | psub (pd ps pt pu : PReg)
  | pinf (pd ps : PReg)
deriving DecidableEq, Repr

/-- R100: the restriction on which registers may be the same. -/
def Pseudo.allowed : Pseudo → Bool
  | .fsqr _ _ => true
  | .fdbl _ _ => true
  | .fmov _ fa ft => decide (ft ≠ fa)
  | .fneg _ fa ft => decide (ft ≠ fa)
  | .fdiv _ fa _ ft => decide (ft ≠ fa)
  | .tomont _ fa ft => decide (ft ≠ fa)
  | .frommont _ fa ft => decide (ft ≠ fa)
  | .pmov _ _ => true
  | .psub _ ps _ pu => decide (pu ≠ ps)
  | .pinf pd ps => decide (pd ≠ ps)

/-- R100: the expansions. #ZERO is selector 0, #ONE 1, #R2MODP 6 (R117). -/
def Pseudo.expand : Pseudo → List Instr
  | .fsqr fd fa => [.fmul fd fa fa]
  | .fdbl fd fa => [.fadd fd fa fa]
  | .fmov fd fa ft => [.fldc ft 0, .fadd fd fa ft]
  | .fneg fd fa ft => [.fldc ft 0, .fsub fd ft fa]
  | .fdiv fd fa fb ft => [.finv ft fb, .fmul fd fa ft]
  | .tomont fd fa ft => [.fldc ft 6, .mmul fd fa ft]
  | .frommont fd fa ft => [.fldc ft 1, .mmul fd fa ft]
  | .pmov pd ps => [.pneg pd ps, .pneg pd pd]
  | .psub pd ps pt pu => [.pneg pu pt, .padd pd ps pu]
  | .pinf pd ps => [.pneg pd ps, .padd pd ps pd]

end Sys2Proof.Machine
end

