-- ==== Sys2Proof/Machine/Asm.lean ====
section
/-! DEFINITION. Sys2Proof/Machine/Asm.lean: the assembler and disassembler of command lines (spec/30_encoding.md R99-R101).
Text is a list of characters. -/

namespace Sys2Proof.Machine

abbrev Text := List Char

/-! ### Writing -/

/-- A hexadecimal digit, upper case. -/
def hexDigit (n : Nat) : Char := if n < 10 then Char.ofNat (48 + n) else Char.ofNat (55 + n)

/-- An index below 100 in decimal. -/
def decimal (n : Nat) : Text := if n < 10 then [hexDigit n] else [hexDigit (n / 10), hexDigit (n % 10)]

/-- f0..f15, p0..p7, j0..j3 (R99). -/
def regText {n : Nat} (k : Char) (i : Fin n) : Text := k :: decimal i.val

/-- The names of the FLDC constants (R99, R117). -/
def selName (c : Selector) : Text :=
  match c.toNat with
  | 0 => "ZERO".toList
  | 1 => "ONE".toList
  | 2 => "B".toList
  | 3 => "GX".toList
  | 4 => "GY".toList
  | 5 => "RMODP".toList
  | _ => "R2MODP".toList

/-- A constant written by name (R99). -/
def selText (c : Selector) : Text := '#' :: selName c

/-- Operands separated by a comma and a space. -/
def commaList : List Text → Text
  | [] => []
  | [t] => t
  | t :: ts => t ++ ", ".toList ++ commaList ts

/-- A mnemonic and its operands (R99). -/
def lineText (mnemonic : String) (ops : List Text) : Text :=
  match ops with
  | [] => mnemonic.toList
  | _ :: _ => mnemonic.toList ++ ' ' :: commaList ops

/-- A command in the syntax of R99, constants by name. -/
def asmText : Instr → Text
  | .nop => lineText "NOP" []
  | .fadd rd rs1 rs2 => lineText "FADD" [regText 'f' rd, regText 'f' rs1, regText 'f' rs2]
  | .fsub rd rs1 rs2 => lineText "FSUB" [regText 'f' rd, regText 'f' rs1, regText 'f' rs2]
  | .fmul rd rs1 rs2 => lineText "FMUL" [regText 'f' rd, regText 'f' rs1, regText 'f' rs2]
  | .mmul rd rs1 rs2 => lineText "MMUL" [regText 'f' rd, regText 'f' rs1, regText 'f' rs2]
  | .finv rd rs1 => lineText "FINV" [regText 'f' rd, regText 'f' rs1]
  | .fsqrt rd rs1 => lineText "FSQRT" [regText 'f' rd, regText 'f' rs1]
  | .fldc rd imm => lineText "FLDC" [regText 'f' rd, selText imm]
  | .pldg rd => lineText "PLDG" [regText 'p' rd]
  | .pmk rd rs1 rs2 => lineText "PMK" [regText 'p' rd, regText 'f' rs1, regText 'f' rs2]
  | .pneg rd rs1 => lineText "PNEG" [regText 'p' rd, regText 'p' rs1]
  | .padd rd rs1 rs2 => lineText "PADD" [regText 'p' rd, regText 'p' rs1, regText 'p' rs2]
  | .pdbl rd rs1 => lineText "PDBL" [regText 'p' rd, regText 'p' rs1]
  | .pchk rs1 => lineText "PCHK" [regText 'p' rs1]
  | .pchkxy rs1 rs2 => lineText "PCHKXY" [regText 'f' rs1, regText 'f' rs2]
  | .peq rs1 rs2 => lineText "PEQ" [regText 'p' rs1, regText 'p' rs2]
  | .jld rd rs1 => lineText "JLD" [regText 'j' rd, regText 'p' rs1]
  | .jadd rd rs1 rs2 => lineText "JADD" [regText 'j' rd, regText 'j' rs1, regText 'p' rs2]
  | .jdbl rd rs1 => lineText "JDBL" [regText 'j' rd, regText 'j' rs1]
  | .jtoa rd rs1 => lineText "JTOA" [regText 'p' rd, regText 'j' rs1]
  | .pmul rd rs1 => lineText "PMUL" [regText 'p' rd, regText 'p' rs1]
  | .penc rs1 => lineText "PENC" [regText 'p' rs1]
  | .pdec rd => lineText "PDEC" [regText 'p' rd]

/-- The eight hexadecimal digits of a word. -/
def hex32 (w : W32) : Text :=
  [28, 24, 20, 16, 12, 8, 4, 0].map fun k => hexDigit (w.extractLsb' k 4).toNat

/-- R101: the disassembly of a word. An illegal word is never given a mnemonic. -/
def disassemble (w : W32) : Text :=
  match decode w with
  | some i => asmText i
  | none => ".word 0x".toList ++ hex32 w

/-! ### Reading -/

/-- A space or a tab. -/
def isBlank (c : Char) : Bool := c == ' ' || c == '\t'

/-- Text without the blanks at its ends. -/
def trim (t : Text) : Text := ((t.dropWhile isBlank).reverse.dropWhile isBlank).reverse

/-- Text cut at its commas. -/
def splitCommas : Text → List Text
  | [] => [[]]
  | c :: cs =>
    match splitCommas cs with
    | [] => [[c]]
    | t :: ts => if c = ',' then [] :: t :: ts else (c :: t) :: ts

/-- A register operand of the given kind and range; anything else is refused (R99). -/
def readReg (k : Char) (n : Nat) (t : Text) : Option (Fin n) := (List.finRange n).find? fun i => regText k i = t

/-- An F operand. -/
def readF (t : Text) : Option FReg := readReg 'f' 16 t
/-- A P operand. -/
def readP (t : Text) : Option PReg := readReg 'p' 8 t
/-- A J operand. -/
def readJ (t : Text) : Option JReg := readReg 'j' 4 t

/-- A constant operand: #n with n = 0..6, or by name (R99). -/
def readSel (t : Text) : Option Selector :=
  (List.map (BitVec.ofNat 4) [0, 1, 2, 3, 4, 5, 6]).find? fun c => selText c = t || '#' :: decimal c.toNat = t

/-- Exactly no operand. -/
def take0 (i : List Instr) : List Text → Option (List Instr)
  | [] => some i
  | _ => none
/-- Exactly one operand. -/
def take1 {α : Type} (ra : Text → Option α) (k : α → List Instr) : List Text → Option (List Instr)
  | [a] => do return k (← ra a)
  | _ => none
/-- Exactly two operands. -/
def take2 {α β : Type} (ra : Text → Option α) (rb : Text → Option β) (k : α → β → List Instr) :
    List Text → Option (List Instr)
  | [a, b] => do return k (← ra a) (← rb b)
  | _ => none
/-- Exactly three operands. -/
def take3 {α β γ : Type} (ra : Text → Option α) (rb : Text → Option β) (rc : Text → Option γ)
    (k : α → β → γ → List Instr) : List Text → Option (List Instr)
  | [a, b, c] => do return k (← ra a) (← rb b) (← rc c)
  | _ => none
/-- Exactly four operands. -/
def take4 {α : Type} (ra : Text → Option α) (k : α → α → α → α → List Instr) : List Text → Option (List Instr)
  | [a, b, c, d] => do return k (← ra a) (← ra b) (← ra c) (← ra d)
  | _ => none

/-- The expansion of a pseudo-instruction; a line that breaks its restriction is refused by `assemble` (R100). -/
def allowedExpansion (q : Pseudo) : List Instr := if q.allowed then q.expand else []

/-- The mnemonics with the readers of their operands (R99, R100). -/
def readers : List (String × (List Text → Option (List Instr))) :=
  [ ("NOP", take0 [.nop]),
    ("FADD", take3 readF readF readF fun d a b => [.fadd d a b]),
    ("FSUB", take3 readF readF readF fun d a b => [.fsub d a b]),
    ("FMUL", take3 readF readF readF fun d a b => [.fmul d a b]),
    ("MMUL", take3 readF readF readF fun d a b => [.mmul d a b]),
    ("FINV", take2 readF readF fun d a => [.finv d a]),
    ("FSQRT", take2 readF readF fun d a => [.fsqrt d a]),
    ("FLDC", take2 readF readSel fun d c => [.fldc d c]),
    ("PLDG", take1 readP fun d => [.pldg d]),
    ("PMK", take3 readP readF readF fun d a b => [.pmk d a b]),
    ("PNEG", take2 readP readP fun d a => [.pneg d a]),
    ("PADD", take3 readP readP readP fun d a b => [.padd d a b]),
    ("PDBL", take2 readP readP fun d a => [.pdbl d a]),
    ("PCHK", take1 readP fun a => [.pchk a]),
    ("PCHKXY", take2 readF readF fun a b => [.pchkxy a b]),
    ("PEQ", take2 readP readP fun a b => [.peq a b]) ] ++
  [ ("JLD", take2 readJ readP fun d a => [.jld d a]),
    ("JADD", take3 readJ readJ readP fun d a b => [.jadd d a b]),
    ("JDBL", take2 readJ readJ fun d a => [.jdbl d a]),
    ("JTOA", take2 readP readJ fun d a => [.jtoa d a]),
    ("PMUL", take2 readP readP fun d a => [.pmul d a]),
    ("PENC", take1 readP fun a => [.penc a]),
    ("PDEC", take1 readP fun d => [.pdec d]) ] ++
  [ ("FSQR", take2 readF readF fun d a => allowedExpansion (.fsqr d a)),
    ("FDBL", take2 readF readF fun d a => allowedExpansion (.fdbl d a)),
    ("FMOV", take3 readF readF readF fun d a t => allowedExpansion (.fmov d a t)),
    ("FNEG", take3 readF readF readF fun d a t => allowedExpansion (.fneg d a t)),
    ("FDIV", take4 readF fun d a b t => allowedExpansion (.fdiv d a b t)),
    ("TOMONT", take3 readF readF readF fun d a t => allowedExpansion (.tomont d a t)),
    ("FROMMONT", take3 readF readF readF fun d a t => allowedExpansion (.frommont d a t)),
    ("PMOV", take2 readP readP fun d a => allowedExpansion (.pmov d a)),
    ("PSUB", take4 readP fun d s t u => allowedExpansion (.psub d s t u)),
    ("PINF", take2 readP readP fun d a => allowedExpansion (.pinf d a)) ]

/-- R99, R100: the commands of one line, or none where the assembler refuses it (an unknown mnemonic, an operand of the
wrong kind, an index out of range, a missing or extra operand, registers a pseudo-instruction may not share). A `;`
starts a comment, and mnemonics are case-insensitive. -/
def assemble (line : Text) : Option (List Instr) :=
  let body := trim (line.takeWhile fun c => c != ';')
  let mnemonic := (body.takeWhile fun c => !isBlank c).map Char.toUpper
  let rest := trim (body.dropWhile fun c => !isBlank c)
  let ops := if rest = [] then [] else (splitCommas rest).map trim
  match readers.find? fun e => e.1.toList = mnemonic with
  | none => none
  | some e =>
    match e.2 ops with
    | some (i :: is) => some (i :: is)
    | _ => none

end Sys2Proof.Machine
end

