-- ==== Sys2Proof/Machine/HostRuntime.lean ====
section
/-! DEFINITION. Sys2Proof/Machine/HostRuntime.lean: the host side the spec writes down: the directives of the listings and
the command-line convention (spec/30_encoding.md R99), where the window sits (R61, R67), the hex spelling of CBUF
(spec/44_codec.md R178). The machine's step uses none of it. -/

namespace Sys2Proof.Machine

/-! ### Accesses -/

/-- HostWrite(off, v), 32 bits wide (R9, R62). -/
def hostWrite (off : Offset) (v : W32) : Access := ⟨true, off, 2#2, v⟩

/-- HostRead(off), 32 bits wide (R9, R62). -/
def hostRead (off : Offset) : Access := ⟨false, off, 2#2, 0#32⟩

/-- R61, R67: the offset the block sees for a host address, with the window at BASE; none outside the window. -/
def windowOffset (base hostAddr : Nat) : Option Offset :=
  if base ≤ hostAddr ∧ hostAddr < base + 4096 then some (BitVec.ofNat 12 (hostAddr - base)) else none

/-- The state after a list of host accesses with no turn of the core between them. -/
def State.accesses (s : State) (l : List Access) : State := l.foldl State.access s

/-! ### Directives (R99) -/

/-- The offset of F[i] in the window (R21). -/
def fOffset (i : Fin 16) : Offset := BitVec.ofNat 12 (0x100 + 0x20 * i.val)
/-- The offset of KMAG. -/
def kmagOffset : Offset := 0x020#12
/-- The offset of CBUF. -/
def cbufOffset : Offset := 0x900#12
/-- The offset of KSIGN. -/
def ksignOffset : Offset := 0x010#12
/-- The offset of CMD. -/
def cmdOffset : Offset := 0x00C#12
/-- The offset of STATUS. -/
def statusOffset : Offset := 0x008#12
/-- The offset of CTRL. -/
def ctrlOffset : Offset := 0x004#12

/-- A register that `.wr256` writes. -/
inductive Wide where
  | f (i : Fin 16)
  | kmag
deriving DecidableEq, Repr

/-- Where a wide register stands. -/
def Wide.offset : Wide → Offset
  | .f i => fOffset i
  | .kmag => kmagOffset

/-- `.wr256`: eight HostWrites of the words of v, word w at offset + 4·w. -/
def wr256 (off : Offset) (v : W256) : List Access :=
  (List.finRange 8).map fun w => hostWrite (off + BitVec.ofNat 12 (4 * w.val)) (wordOf v w)

/-- `.wrk s`: the sign, then the magnitude. -/
def wrk (k : Int) : List Access :=
  hostWrite ksignOffset (if k < 0 then 1#32 else 0#32) :: wr256 kmagOffset (BitVec.ofNat 256 k.natAbs)

/-- `.wrcbuf`: nine HostWrites packing the 33 bytes as R35 lays them out. -/
def wrcbuf (buf : Vector Byte 33) : List Access :=
  (List.finRange 9).map fun k => hostWrite (cbufOffset + BitVec.ofNat 12 (4 * k.val)) (cbufWord buf k)

/-- `.rd256`: eight HostReads. -/
def rd256 (off : Offset) : List Access := (List.finRange 8).map fun w => hostRead (off + BitVec.ofNat 12 (4 * w.val))

/-- `.rdcbuf`: nine HostReads. -/
def rdcbuf : List Access := (List.finRange 9).map fun k => hostRead (cbufOffset + BitVec.ofNat 12 (4 * k.val))

/-- The value that eight words read by `.rd256` make, word 0 first. -/
def joinWords (ws : Vector W32 8) : W256 :=
  BitVec.ofNat 256 (ws.toList.foldr (fun w acc => w.toNat + 2 ^ 32 * acc) 0)

/-- The 33 bytes that nine words read by `.rdcbuf` make. -/
def unpackCbuf (ws : Vector W32 9) : Vector Byte 33 :=
  Vector.ofFn fun b : Fin 33 => (ws[b.val / 4]'(by omega)).extractLsb' (8 * (b.val % 4)) 8

/-- A line of a listing. A label is a number. -/
inductive HostLine where
  | command (i : Instr)
  | wr256 (r : Wide) (v : W256)
  | wrk (k : Int)
  | wrcbuf (buf : Vector Byte 33)
  | rd256 (off : Offset)
  | rdcbuf
  | write (off : Offset) (v : W32)
  | read (off : Offset)
  | wait
  | expect
  | label (l : Nat)
  | bf (l : Nat)
  | berr (l : Nat)
  | br (l : Nat)
deriving DecidableEq, Repr

/-- R99: the accesses of a line, the poll of a command and of `.wait` written once (`HostLine.after` repeats it). -/
def HostLine.accesses : HostLine → List Access
  | .command i => [hostWrite cmdOffset (encode i), hostRead statusOffset]
  | .wr256 reg v => Sys2Proof.Machine.wr256 reg.offset v
  | .wrk k => Sys2Proof.Machine.wrk k
  | .wrcbuf buf => Sys2Proof.Machine.wrcbuf buf
  | .rd256 off => Sys2Proof.Machine.rd256 off
  | .rdcbuf => Sys2Proof.Machine.rdcbuf
  | .write off v => [hostWrite off v]
  | .read off => [hostRead off]
  | .wait => [hostRead statusOffset]
  | .expect => []
  | .label _ => []
  | .bf _ => [hostRead statusOffset]
  | .berr _ => [hostRead statusOffset]
  | .br _ => []

/-- What the host does after a line's accesses. -/
inductive Follow where
  /-- Read STATUS again. -/
  | poll
  /-- Go on at the next line. -/
  | nextLine
  /-- Go on at a label. -/
  | goto (l : Nat)
deriving DecidableEq, Repr

/-- R99: how the host goes on, given the word its last read of STATUS returned. Control flow is the host's (R191). -/
def HostLine.after (line : HostLine) (status : W32) : Follow :=
  match line with
  | .command _ => if status[0] then .poll else .nextLine
  | .wait => if status[0] then .poll else .nextLine
  | .bf l => if status[3] then .nextLine else .goto l
  | .berr l => if status[2] then .goto l else .nextLine
  | .br l => .goto l
  | .wr256 _ _ => .nextLine
  | .wrk _ => .nextLine
  | .wrcbuf _ => .nextLine
  | .rd256 _ => .nextLine
  | .rdcbuf => .nextLine
  | .write _ _ => .nextLine
  | .read _ => .nextLine
  | .expect => .nextLine
  | .label _ => .nextLine

/-! ### Running commands one after another -/

/-- R99: a command line from an idle block: issue, then completion. The polls between them change nothing but what the
last access returned. -/
def runCommand (i : Instr) (s : State) : Host.Outcome State Fault Refusal := execWord (s.issue (encode i)) (encode i)

/-- R100: a host that follows R99's convention issues the next command only after a success. -/
def runCommands : List Instr → State → Host.Outcome State Fault Refusal
  | [], s => .next s
  | i :: rest, s =>
    match runCommand i s with
    | .next t => if t.errcode = 0#4 then runCommands rest t else .next t
    | .fault r => .fault r
    | .refused r => .refused r

/-! ### The hex spelling of CBUF (R178) -/

/-- The lower-case hexadecimal digit of a 4-bit value. -/
def hexLower (n : Nat) : Char := if n < 10 then Char.ofNat (48 + n) else Char.ofNat (87 + n)

/-- The value of a hexadecimal digit in either letter case. -/
def hexValue (c : Char) : Option Nat :=
  if 48 ≤ c.toNat ∧ c.toNat ≤ 57 then some (c.toNat - 48)
  else if 97 ≤ c.toNat ∧ c.toNat ≤ 102 then some (c.toNat - 87)
  else if 65 ≤ c.toNat ∧ c.toNat ≤ 70 then some (c.toNat - 55)
  else none

/-- R178: the 66-digit string of the 33 bytes. The case is the host's choice: lower (log entry 6). -/
def cbufHex (buf : Vector Byte 33) : List Char :=
  buf.toList.flatMap fun b => [hexLower (b.toNat / 16), hexLower (b.toNat % 16)]

/-- The bytes that pairs of hexadecimal digits spell. -/
def hexBytes : List Char → Option (List Byte)
  | [] => some []
  | a :: b :: rest => do
    let hi ← hexValue a
    let lo ← hexValue b
    let bytes ← hexBytes rest
    return BitVec.ofNat 8 (16 * hi + lo) :: bytes
  | [_] => none

/-- R178: the bytes a host writes to CBUF for a string; a string of another length or with other characters is refused. -/
def hexCbuf (t : List Char) : Option (Vector Byte 33) :=
  match hexBytes t with
  | some bytes => if h : bytes.length = 33 then some ⟨bytes.toArray, by simpa using h⟩ else none
  | none => none

end Sys2Proof.Machine
end

