-- ==== Sys2Proof/Safety.lean ====
section
/-! DEFINITION. Sys2Proof/Safety.lean: the terms the statements use: valid points and triples, the invariant of the
machine, which registers a command may write, the error codes it may end with, the field Z/p. -/

namespace Sys2Proof

/-- The F register a command names as its destination (Table 30-2). -/
def Instr.destF : Instr → Option FReg
  | .fadd rd _ _ => some rd
  | .fsub rd _ _ => some rd
  | .fmul rd _ _ => some rd
  | .mmul rd _ _ => some rd
  | .finv rd _ => some rd
  | .fsqrt rd _ => some rd
  | .fldc rd _ => some rd
  | _ => none

/-- The P register a command names as its destination (R31). -/
def Instr.destP : Instr → Option PReg
  | .pldg rd => some rd
  | .pmk rd _ _ => some rd
  | .pneg rd _ => some rd
  | .padd rd _ _ => some rd
  | .pdbl rd _ => some rd
  | .jtoa rd _ => some rd
  | .pmul rd _ => some rd
  | .pdec rd => some rd
  | _ => none

/-- The J register a command names as its destination (R33). -/
def Instr.destJ : Instr → Option JReg
  | .jld rd _ => some rd
  | .jadd rd _ _ => some rd
  | .jdbl rd _ => some rd
  | _ => none

/-- R25: the commands that may write BOOL. -/
def Instr.writesBool : Instr → Bool
  | .fsqrt _ _ => true
  | .pchk _ => true
  | .pchkxy _ _ => true
  | .peq _ _ => true
  | _ => false

/-- R35: the command that may write CBUF. -/
def Instr.writesCbuf : Instr → Bool
  | .penc _ => true
  | _ => false

end Sys2Proof

namespace Sys2Proof.Machine

/-- R31: Inf, or an affine pair with canonical coordinates on the curve. -/
def Point.valid : Point → Bool
  | .inf => true
  | .aff x y => canonical x && canonical y && onCurve x y

/-- R33: JINF = (0, 0, 0), or a triple of canonical coordinates with Z ≠ 0 that stands for a point of the curve. -/
def Jac.valid (T : Jac) : Bool :=
  decide (T = Jac.inf) ||
    (canonical T.x && canonical T.y && canonical T.z && decide (T.z ≠ 0#256) && T.rep.isOnCurve)

/-- The invariant of the machine: R31 for every P register, R33 for every J register, ERRCODE one of the codes that are
produced (R200), and DONE = 0, ERRCODE = 0 while a command is in progress (R26, R27, R70). -/
structure State.Inv (s : State) : Prop where
  points : ∀ i, (s.toRegs.getP i).valid = true
  triples : ∀ i, (s.toRegs.getJ i).valid = true
  code : s.errcode.toNat ≤ 7
  inProgress : s.busy = true → s.done = false ∧ s.errcode = 0#4

/-- An element of the field Z/p. -/
def fe (x : W256) : ZMod Config.p := (x.toNat : ZMod Config.p)

/-- The word of a command, from its fields as numbers (R90, R95), encodes it and decodes to it. -/
def wordIs (i : Instr) (op rd rs1 rs2 imm : Nat) : Prop :=
  encode i = BitVec.ofNat 32 (rs2 * 2 ^ 16 + rs1 * 2 ^ 12 + rd * 2 ^ 8 + op + imm * 2 ^ 20) ∧
    decode (BitVec.ofNat 32 (rs2 * 2 ^ 16 + rs1 * 2 ^ 12 + rd * 2 ^ 8 + op + imm * 2 ^ 20)) = some i

/-- Command i completes from s with success, and the registers are then r but for ERRCODE, DONE and BUSY (R71). Nothing
else of the state changes. -/
def succeedsWith (i : Instr) (s : State) (r : Regs) : Prop :=
  exec i s = .next { s with toRegs := { r with errcode := 0#4, done := true, busy := false } }

/-- Command i completes from s with an error code, and only ERRCODE, DONE and BUSY change (R202, R203). -/
def failsWith (i : Instr) (s : State) (code : BitVec 4) : Prop :=
  exec i s = .next { s with errcode := code, done := true, busy := false }

/-- F[i] as a number. -/
def fNat (s : State) (i : FReg) : Nat := (s.toRegs.getF i).toNat

/-- R134 in the field Z/p: R is the double of A. The slope is a field division (90_conflicts.md C3). -/
def DoubleOf (A R : Point) : Prop :=
  match A with
  | .inf => R = .inf
  | .aff x y =>
    if y = 0#256 then R = .inf
    else ∃ xr yr : W256, R = .aff xr yr ∧ canonical xr = true ∧ canonical yr = true ∧
      fe xr = (3 * fe x * fe x * (2 * fe y)⁻¹) ^ 2 - 2 * fe x ∧
      fe yr = 3 * fe x * fe x * (2 * fe y)⁻¹ * (fe x - fe xr) - fe y

/-- R133 in the field Z/p: the outcome of A + B, the cases in the rule's order; none is NO_MODULAR_INVERSE. -/
def SumOf (A B : Point) (out : Option Point) : Prop :=
  match A, B with
  | .inf, _ => out = some B
  | .aff _ _, .inf => out = some A
  | .aff x1 y1, .aff x2 y2 =>
    if x1 = x2 ∧ (y1.toNat + y2.toNat) % Config.p = 0 then out = some .inf
    else if x1 = x2 ∧ y1 = y2 then ∃ R, out = some R ∧ DoubleOf A R
    else if fe x2 - fe x1 = 0 then out = none
    else ∃ xr yr : W256, out = some (.aff xr yr) ∧ canonical xr = true ∧ canonical yr = true ∧
      fe xr = ((fe y2 - fe y1) * (fe x2 - fe x1)⁻¹) ^ 2 - fe x1 - fe x2 ∧
      fe yr = (fe y2 - fe y1) * (fe x2 - fe x1)⁻¹ * (fe x1 - fe xr) - fe y1

/-- R153 in Z/p: T' is the doubled triple of T. -/
def JacDoubleOf (T T' : Jac) : Prop :=
  if T.z = 0#256 ∨ T.y = 0#256 then T' = ⟨0#256, 0#256, 0#256⟩
  else canonical T'.x = true ∧ canonical T'.y = true ∧ canonical T'.z = true ∧
    fe T'.x = (3 * fe T.x ^ 2) ^ 2 - 2 * (4 * fe T.x * fe T.y ^ 2) ∧
    fe T'.y = 3 * fe T.x ^ 2 * (4 * fe T.x * fe T.y ^ 2 - fe T'.x) - 8 * fe T.y ^ 4 ∧
    fe T'.z = 2 * fe T.y * fe T.z

/-- R152 in Z/p: T' is the mixed sum of T and B, with H = B.x·Z1² - X1 and r = B.y·Z1³ - Y1. -/
def JacSumOf (T : Jac) (B : Point) (T' : Jac) : Prop :=
  match B with
  | .inf => T' = T
  | .aff x y =>
    if T.z = 0#256 then T' = ⟨x, y, 1#256⟩
    else if fe x * fe T.z ^ 2 - fe T.x = 0 then
      if fe y * fe T.z ^ 3 - fe T.y = 0 then JacDoubleOf T T' else T' = ⟨0#256, 0#256, 0#256⟩
    else canonical T'.x = true ∧ canonical T'.y = true ∧ canonical T'.z = true ∧
      fe T'.x = (fe y * fe T.z ^ 3 - fe T.y) ^ 2 - (fe x * fe T.z ^ 2 - fe T.x) ^ 3 -
        2 * (fe T.x * (fe x * fe T.z ^ 2 - fe T.x) ^ 2) ∧
      fe T'.y = (fe y * fe T.z ^ 3 - fe T.y) * (fe T.x * (fe x * fe T.z ^ 2 - fe T.x) ^ 2 - fe T'.x) -
        fe T.y * (fe x * fe T.z ^ 2 - fe T.x) ^ 3 ∧
      fe T'.z = fe T.z * (fe x * fe T.z ^ 2 - fe T.x)

/-- R154 in Z/p: A is the point the triple T stands for. -/
def AffineOf (T : Jac) (A : Point) : Prop :=
  if T.z = 0#256 then A = .inf
  else ∃ x y : W256, A = .aff x y ∧ canonical x = true ∧ canonical y = true ∧
    fe x = fe T.x * (fe T.z ^ 2)⁻¹ ∧ fe y = fe T.y * (fe T.z ^ 3)⁻¹

/-- R1: (x, y) satisfies y² ≡ x³ + 7 (mod p). -/
def onE (x y : W256) : Prop := y.toNat ^ 2 % Config.p = (x.toNat ^ 3 + 7) % Config.p

/-- R176: the number the 32 bytes after CBUF[0] spell, most significant first. -/
def cbufNat (s : State) : Nat := ∑ i : Fin 32, (s.cbuf[1 + i.val]).toNat * 256 ^ (31 - i.val)

/-- R201: the codes a command can end with. -/
def possibleCodes : Instr → List (BitVec 4)
  | .nop => [0]
  | .fadd _ _ _ => [0, 6]
  | .fsub _ _ _ => [0, 6]
  | .fmul _ _ _ => [0, 6]
  | .mmul _ _ _ => [0, 6]
  | .finv _ _ => [0, 6, 2]
  | .fsqrt _ _ => [0, 6]
  | .fldc _ _ => [0]
  | .pldg _ => [0]
  | .pmk _ _ _ => [0, 6, 1]
  | .pneg _ _ => [0]
  | .padd _ _ _ => [0]
  | .pdbl _ _ => [0]
  | .pchk _ => [0]
  | .pchkxy _ _ => [0, 6]
  | .peq _ _ => [0]
  | .jld _ _ => [0]
  | .jadd _ _ _ => [0]
  | .jdbl _ _ => [0]
  | .jtoa _ _ => [0]
  | .pmul _ _ => [0]
  | .penc _ => [0, 5]
  | .pdec _ => [0, 4, 6, 3]

/-- An event that resets the block: rst_n, or an admitted write of CTRL with bit 1 set (R230, R231). -/
def Event.isReset : Event → Bool
  | .core => false
  | .access a => a.admitted && a.we && decide (locate a.addr = .ctrl) && a.wdata[1]
  | .hwReset => true

/-- A host access of an agenda. -/
def Event.isAccess : Event → Bool
  | .core => false
  | .access _ => true
  | .hwReset => false

/-- A added to itself k times with the group law (R139, R165). -/
def nTimes : Nat → Point → Except Err Point
  | 0, _ => .ok .inf
  | k + 1, A =>
    match nTimes k A with
    | .ok B => affAdd B A
    | .error e => .error e

end Sys2Proof.Machine
end

