-- ==== Sys2Proof/Certificates/Slice0/Obligations.lean ====
section
/-! DEFINITION. Sys2Proof/Certificates/Slice0/Obligations.lean: the statements for the provers. OBLIGATIONS.json lists them
with the rules they formalise. `succeedsWith`, `failsWith`, `SumOf` and the other terms are those of Sys2Proof/Safety.lean. -/

open Sys2Proof Sys2Proof.Machine

/-! ### Encoding -/

/-- Decode and encode agree on every command (R90-R95). -/
def Obligations.DecodeOfEncodeIsTheCommand : Prop :=
  ∀ i : Instr, i.wellFormed = true → decode (encode i) = some i

/-- The decoder accepts exactly the words that R96 calls legal, and a legal word is the encoding of the one command it
decodes to, which is well formed. -/
def Obligations.DecoderAcceptsExactlyTheLegalWords : Prop :=
  (∀ w : W32, (decode w).isSome = Legal w) ∧
    ∀ (w : W32) (i : Instr), decode w = some i → encode i = w ∧ i.wellFormed = true

/-- Words written out in the spec's rules and vectors decode to the command beside them. -/
def Obligations.SpecExampleWordsDecode : Prop :=
  decode 0x00000000#32 = some .nop ∧ decode 0x00010210#32 = some (.fadd 2 0 1) ∧
    decode 0x00300516#32 = some (.fldc 5 3) ∧ decode 0x00010223#32 = some (.padd 2 0 1) ∧
    decode 0x00021027#32 = some (.peq 1 2) ∧ decode 0x00010031#32 = some (.jadd 0 0 1) ∧
    decode 0x00001133#32 = some (.jtoa 1 1) ∧ decode 0x00000140#32 = some (.pmul 1 0) ∧
    decode 0x00001050#32 = some (.penc 1) ∧ decode 0x00000251#32 = some (.pdec 2) ∧
    decode 0x00700516#32 = none ∧ decode 0x00000823#32 = none ∧ decode 0x01000000#32 = none

/-- R96: a command word that is not legal ends with ILLEGAL_COMMAND, and nothing else changes. The agenda is the model's own
field (log entry 1). -/
def Obligations.IllegalWordsEndWithIllegalCommand : Prop :=
  ∀ s : State, s.busy = true → Legal s.cmd = false →
    (s.agenda = [] → step s = .next { s with errcode := 7#4, done := true, busy := false }) ∧
      ∀ rest, s.agenda = .core :: rest →
        step s = .next { s with agenda := rest, errcode := 7#4, done := true, busy := false }

/-! ### The step -/

/-- While BUSY = 1 the core's turn runs the command CMD decodes to (R39, R71): at once when nothing is planned, and when
the agenda says that the core moves next. The agenda is the model's own field (log entry 1). -/
def Obligations.StepRunsTheDecodedCommand : Prop :=
  ∀ (s : State) (i : Instr), s.busy = true → decode s.cmd = some i →
    (s.agenda = [] → step s = exec i s) ∧
      ∀ rest, s.agenda = .core :: rest → step s = exec i { s with agenda := rest }

/-- A step takes the first event of the agenda (R76): the core's turn does nothing while BUSY = 0, a host access is
performed, and rst_n resets the block. The agenda is the model's own field (log entry 1), and that no bus outcome is left
after rst_n is its choice (log entry 4). -/
def Obligations.StepTakesTheFirstEvent : Prop :=
  ∀ s : State,
    (s.busy = false → s.agenda = [] → step s = .next s) ∧
      (∀ rest, s.busy = false → s.agenda = .core :: rest → step s = .next { s with agenda := rest }) ∧
      (∀ a rest, s.agenda = .access a :: rest → step s = .next (State.access { s with agenda := rest } a)) ∧
      ∀ rest, s.agenda = .hwReset :: rest →
        step s = .next { s with toRegs := Regs.reset, agenda := rest, bus := none }

/-- No step of the machine faults or is refused: no command can hang the block, and no error is a trap (R71, R73, R202). -/
def Obligations.EveryStepAnswersANextState : Prop :=
  ∀ s : State, ∃ t, step s = .next t

/-! ### All commands at once -/

/-- Every command completes from every state (R71): DONE = 1, BUSY = 0. It writes no register but the one it names as its
destination (R30, R31, R33), BOOL and CBUF only where R25 and R35 let it, and neither K (R34) nor IRQEN, OVR, CMD. -/
def Obligations.CommandsWriteOnlyTheirDestination : Prop :=
  ∀ (i : Instr) (s : State), ∃ t, exec i s = .next t ∧ t.busy = false ∧ t.done = true ∧
    (∀ k, i.destF ≠ some k → t.toRegs.getF k = s.toRegs.getF k) ∧
    (∀ k, i.destP ≠ some k → t.toRegs.getP k = s.toRegs.getP k) ∧
    (∀ k, i.destJ ≠ some k → t.toRegs.getJ k = s.toRegs.getJ k) ∧
    (i.writesBool = false → t.bool = s.bool) ∧ (i.writesCbuf = false → t.cbuf = s.cbuf) ∧
    t.ksign = s.ksign ∧ t.kmag = s.kmag ∧ t.irqen = s.irqen ∧ t.ovr = s.ovr ∧ t.cmd = s.cmd ∧
    t.agenda = s.agenda ∧ t.bus = s.bus ∧ t.draws = s.draws

/-- R203: a command that ends with code ≠ 0 changes only ERRCODE, DONE and BUSY. -/
def Obligations.FailedCommandsChangeNoResult : Prop :=
  ∀ (i : Instr) (s t : State), exec i s = .next t → t.errcode ≠ 0#4 →
    t = { s with errcode := t.errcode, done := true, busy := false }

/-- R201: each command ends with one of its codes, from every state that meets the invariant; there PADD never ends with
code 2 and PDEC never with code 1. An illegal word ends with 7 from every state. -/
def Obligations.CommandsEndWithTheirCodesOnly : Prop :=
  (∀ (i : Instr) (s : State), i.wellFormed = true → s.Inv → ∃ t, exec i s = .next t ∧ t.errcode ∈ possibleCodes i) ∧
    ∀ (w : W32) (s : State), Legal w = false → ∃ t, execWord s w = .next t ∧ t.errcode = 7#4

/-! ### The invariant -/

/-- The invariant holds at reset (R232). -/
def Obligations.InvariantHoldsAtReset : Prop := State.reset.Inv

/-- Every step keeps the invariant: P registers stay on the curve (R31), J registers stay JINF or triples of curve points
(R33), ERRCODE stays a code that is produced (R200), and DONE and ERRCODE are 0 while BUSY = 1. -/
def Obligations.EveryStepKeepsTheInvariant : Prop :=
  ∀ s t : State, s.Inv → step s = .next t → t.Inv

/-! ### Field commands -/

/-- R111, FADD. -/
def Obligations.FaddAddsModuloP : Prop :=
  ∀ (d a b : FReg) (s : State), wordIs (.fadd d a b) 0x10 d a b 0 ∧
    (fNat s a < Config.p → fNat s b < Config.p →
      ∃ v : W256, v.toNat = (fNat s a + fNat s b) % Config.p ∧
        succeedsWith (.fadd d a b) s { s.toRegs with f := s.f.set d.val v }) ∧
    (Config.p ≤ fNat s a ∨ Config.p ≤ fNat s b → failsWith (.fadd d a b) s 6#4)

/-- R112, FSUB: the difference modulo p, never negative. -/
def Obligations.FsubSubtractsModuloP : Prop :=
  ∀ (d a b : FReg) (s : State), wordIs (.fsub d a b) 0x11 d a b 0 ∧
    (fNat s a < Config.p → fNat s b < Config.p →
      ∃ v : W256, v.toNat < Config.p ∧ (v.toNat + fNat s b) % Config.p = fNat s a ∧
        succeedsWith (.fsub d a b) s { s.toRegs with f := s.f.set d.val v }) ∧
    (Config.p ≤ fNat s a ∨ Config.p ≤ fNat s b → failsWith (.fsub d a b) s 6#4)

/-- R113, FMUL: the exact product, then reduction. -/
def Obligations.FmulMultipliesModuloP : Prop :=
  ∀ (d a b : FReg) (s : State), wordIs (.fmul d a b) 0x12 d a b 0 ∧
    (fNat s a < Config.p → fNat s b < Config.p →
      ∃ v : W256, v.toNat = fNat s a * fNat s b % Config.p ∧
        succeedsWith (.fmul d a b) s { s.toRegs with f := s.f.set d.val v }) ∧
    (Config.p ≤ fNat s a ∨ Config.p ≤ fNat s b → failsWith (.fmul d a b) s 6#4)

/-- R114, MMUL: the canonical v with v·R = x·y modulo p, R = 2^256. -/
def Obligations.MmulIsTheMontgomeryProduct : Prop :=
  ∀ (d a b : FReg) (s : State), wordIs (.mmul d a b) 0x13 d a b 0 ∧
    (fNat s a < Config.p → fNat s b < Config.p →
      ∃ v : W256, v.toNat < Config.p ∧ v.toNat * 2 ^ 256 % Config.p = fNat s a * fNat s b % Config.p ∧
        succeedsWith (.mmul d a b) s { s.toRegs with f := s.f.set d.val v }) ∧
    (Config.p ≤ fNat s a ∨ Config.p ≤ fNat s b → failsWith (.mmul d a b) s 6#4)

/-- R115, FINV: the one canonical y with x·y mod p = 1; NO_MODULAR_INVERSE for 0, NOT_CANONICAL checked first. -/
def Obligations.FinvIsTheModularInverse : Prop :=
  ∀ (d a : FReg) (s : State), wordIs (.finv d a) 0x14 d a 0 0 ∧
    (fNat s a < Config.p → fNat s a ≠ 0 →
      ∃ v : W256, v.toNat < Config.p ∧ fNat s a * v.toNat % Config.p = 1 ∧
        (∀ y, y < Config.p → fNat s a * y % Config.p = 1 → y = v.toNat) ∧
        succeedsWith (.finv d a) s { s.toRegs with f := s.f.set d.val v }) ∧
    (fNat s a = 0 → failsWith (.finv d a) s 2#4) ∧
    (Config.p ≤ fNat s a → failsWith (.finv d a) s 6#4)

/-- R116, FSQRT: if x has a square root, F[d] is the candidate x^((p+1)/4) and BOOL = 1; if not, F[d] stays and BOOL = 0. -/
def Obligations.FsqrtFindsTheRootOrClearsBool : Prop :=
  ∀ (d a : FReg) (s : State), wordIs (.fsqrt d a) 0x15 d a 0 0 ∧
    (fNat s a < Config.p → (∃ y, y * y % Config.p = fNat s a) →
      ∃ c : W256, c.toNat < Config.p ∧ fe c = (fNat s a : ZMod Config.p) ^ ((Config.p + 1) / 4) ∧
        c.toNat * c.toNat % Config.p = fNat s a ∧
        succeedsWith (.fsqrt d a) s { s.toRegs with f := s.f.set d.val c, bool := true }) ∧
    (fNat s a < Config.p → (¬ ∃ y, y * y % Config.p = fNat s a) →
      succeedsWith (.fsqrt d a) s { s.toRegs with bool := false }) ∧
    (Config.p ≤ fNat s a → failsWith (.fsqrt d a) s 6#4)

/-- R117, FLDC: the seven constants, and ILLEGAL_COMMAND for the reserved selectors. -/
def Obligations.FldcLoadsTheSelectedConstant : Prop :=
  ∀ (d : FReg) (s : State),
    (∀ c : Selector, c.toNat ≤ 6 → wordIs (.fldc d c) 0x16 d 0 0 c.toNat) ∧
      succeedsWith (.fldc d 0) s { s.toRegs with f := s.f.set d.val 0#256 } ∧
      succeedsWith (.fldc d 1) s { s.toRegs with f := s.f.set d.val 1#256 } ∧
      succeedsWith (.fldc d 2) s { s.toRegs with f := s.f.set d.val 7#256 } ∧
      succeedsWith (.fldc d 3) s
        { s.toRegs with f := s.f.set d.val 0x79BE667EF9DCBBAC55A06295CE870B07029BFCDB2DCE28D959F2815B16F81798#256 } ∧
      succeedsWith (.fldc d 4) s
        { s.toRegs with f := s.f.set d.val 0x483ADA7726A3C4655DA4FBFC0E1108A8FD17B448A68554199C47D08FFB10D4B8#256 } ∧
      succeedsWith (.fldc d 5) s { s.toRegs with f := s.f.set d.val 0x1000003D1#256 } ∧
      succeedsWith (.fldc d 6) s { s.toRegs with f := s.f.set d.val 0x1000007A2000E90A1#256 } ∧
      ∀ c : Selector, 7 ≤ c.toNat → failsWith (.fldc d c) s 7#4

/-! ### Point commands -/

/-- R130, PLDG: P[d] is the generator. -/
def Obligations.PldgLoadsTheGenerator : Prop :=
  ∀ (d : PReg) (s : State), wordIs (.pldg d) 0x20 d 0 0 0 ∧
    ∃ x y : W256,
      x = 0x79BE667EF9DCBBAC55A06295CE870B07029BFCDB2DCE28D959F2815B16F81798#256 ∧
      y = 0x483ADA7726A3C4655DA4FBFC0E1108A8FD17B448A68554199C47D08FFB10D4B8#256 ∧
      succeedsWith (.pldg d) s { s.toRegs with p := s.p.set d.val (.aff x y) }

/-- R131, PMK: the validated constructor; NOT_CANONICAL before INVALID_POINT. -/
def Obligations.PmkBuildsOnlyCurvePoints : Prop :=
  ∀ (d : PReg) (a b : FReg) (s : State), wordIs (.pmk d a b) 0x21 d a b 0 ∧
    (fNat s a < Config.p → fNat s b < Config.p → onE (s.toRegs.getF a) (s.toRegs.getF b) →
      succeedsWith (.pmk d a b) s
        { s.toRegs with p := s.p.set d.val (.aff (s.toRegs.getF a) (s.toRegs.getF b)) }) ∧
    (fNat s a < Config.p → fNat s b < Config.p → ¬ onE (s.toRegs.getF a) (s.toRegs.getF b) →
      failsWith (.pmk d a b) s 1#4) ∧
    (Config.p ≤ fNat s a ∨ Config.p ≤ fNat s b → failsWith (.pmk d a b) s 6#4)

/-- R132, PNEG: Inf to Inf, (x, y) to (x, (p - y) mod p). -/
def Obligations.PnegNegatesThePoint : Prop :=
  ∀ (d a : PReg) (s : State), wordIs (.pneg d a) 0x22 d a 0 0 ∧
    (s.toRegs.getP a = .inf → succeedsWith (.pneg d a) s { s.toRegs with p := s.p.set d.val .inf }) ∧
    ∀ x y, s.toRegs.getP a = .aff x y →
      ∃ z : W256, (z.toNat : Int) = ((Config.p : Int) - y.toNat) % Config.p ∧
        succeedsWith (.pneg d a) s { s.toRegs with p := s.p.set d.val (.aff x z) }

/-- R133, PADD: the group law with its slope a division of the field Z/p, the cases in the rule's order. With valid
operands it never ends with NO_MODULAR_INVERSE. A coordinate y that is canonical, as every P register's is (R31), is what
the doubling case needs: R7 gives inv_p no value elsewhere. -/
def Obligations.PaddIsTheGroupLaw : Prop :=
  ∀ (d a b : PReg) (s : State), wordIs (.padd d a b) 0x23 d a b 0 ∧
    ((∀ x y, s.toRegs.getP a = .aff x y → y.toNat < Config.p) →
      ∀ R, SumOf (s.toRegs.getP a) (s.toRegs.getP b) (some R) →
        succeedsWith (.padd d a b) s { s.toRegs with p := s.p.set d.val R }) ∧
    (SumOf (s.toRegs.getP a) (s.toRegs.getP b) none → failsWith (.padd d a b) s 2#4) ∧
    ((s.toRegs.getP a).valid = true → (s.toRegs.getP b).valid = true →
      ∃ R, SumOf (s.toRegs.getP a) (s.toRegs.getP b) (some R) ∧
        succeedsWith (.padd d a b) s { s.toRegs with p := s.p.set d.val R })

/-- R134, PDBL: the tangent rule in the field Z/p, for a canonical y, as every P register's is (R31). -/
def Obligations.PdblDoublesThePoint : Prop :=
  ∀ (d a : PReg) (s : State), wordIs (.pdbl d a) 0x24 d a 0 0 ∧
    ((∀ x y, s.toRegs.getP a = .aff x y → y.toNat < Config.p) →
      ∃ R, DoubleOf (s.toRegs.getP a) R ∧ succeedsWith (.pdbl d a) s { s.toRegs with p := s.p.set d.val R })

/-- R136, PCHK: BOOL is whether the register's contents satisfy the curve equation. -/
def Obligations.PchkTestsMembership : Prop :=
  ∀ (a : PReg) (s : State), wordIs (.pchk a) 0x25 0 a 0 0 ∧
    (s.toRegs.getP a = .inf → succeedsWith (.pchk a) s { s.toRegs with bool := true }) ∧
    (∀ x y, s.toRegs.getP a = .aff x y → onE x y → succeedsWith (.pchk a) s { s.toRegs with bool := true }) ∧
    (∀ x y, s.toRegs.getP a = .aff x y → ¬ onE x y → succeedsWith (.pchk a) s { s.toRegs with bool := false }) ∧
    ((s.toRegs.getP a).valid = true → succeedsWith (.pchk a) s { s.toRegs with bool := true })

/-- R137, PCHKXY: a point off the curve is BOOL = 0, not an error. -/
def Obligations.PchkxyTestsCoordinates : Prop :=
  ∀ (a b : FReg) (s : State), wordIs (.pchkxy a b) 0x26 0 a b 0 ∧
    (fNat s a < Config.p → fNat s b < Config.p → onE (s.toRegs.getF a) (s.toRegs.getF b) →
      succeedsWith (.pchkxy a b) s { s.toRegs with bool := true }) ∧
    (fNat s a < Config.p → fNat s b < Config.p → ¬ onE (s.toRegs.getF a) (s.toRegs.getF b) →
      succeedsWith (.pchkxy a b) s { s.toRegs with bool := false }) ∧
    (Config.p ≤ fNat s a ∨ Config.p ≤ fNat s b → failsWith (.pchkxy a b) s 6#4)

/-- R138, PEQ: structural equality of two point registers. -/
def Obligations.PeqComparesStructurally : Prop :=
  ∀ (a b : PReg) (s : State), wordIs (.peq a b) 0x27 0 a b 0 ∧
    (s.toRegs.getP a = s.toRegs.getP b → succeedsWith (.peq a b) s { s.toRegs with bool := true }) ∧
    (s.toRegs.getP a ≠ s.toRegs.getP b → succeedsWith (.peq a b) s { s.toRegs with bool := false })

/-! ### Jacobian commands -/

/-- R151, JLD: Inf to JINF, (x, y) to (x, y, 1); the triple stands for the point when the point is valid. -/
def Obligations.JldLoadsTheTriple : Prop :=
  ∀ (d : JReg) (a : PReg) (s : State), wordIs (.jld d a) 0x30 d a 0 0 ∧
    (s.toRegs.getP a = .inf →
      succeedsWith (.jld d a) s { s.toRegs with j := s.j.set d.val ⟨0#256, 0#256, 0#256⟩ }) ∧
    (∀ x y, s.toRegs.getP a = .aff x y →
      succeedsWith (.jld d a) s { s.toRegs with j := s.j.set d.val ⟨x, y, 1#256⟩ }) ∧
    ∀ t, (s.toRegs.getP a).valid = true → exec (.jld d a) s = .next t → AffineOf (t.toRegs.getJ d) (s.toRegs.getP a)

/-- R152, JADD: the mixed addition formulas, in Z/p. -/
def Obligations.JaddComputesTheMixedSum : Prop :=
  ∀ (d a : JReg) (b : PReg) (s : State), wordIs (.jadd d a b) 0x31 d a b 0 ∧
    ∃ T, JacSumOf (s.toRegs.getJ a) (s.toRegs.getP b) T ∧
      succeedsWith (.jadd d a b) s { s.toRegs with j := s.j.set d.val T }

/-- R153, JDBL: the doubling formulas, in Z/p. -/
def Obligations.JdblComputesTheDoubledTriple : Prop :=
  ∀ (d a : JReg) (s : State), wordIs (.jdbl d a) 0x32 d a 0 0 ∧
    ∃ T, JacDoubleOf (s.toRegs.getJ a) T ∧ succeedsWith (.jdbl d a) s { s.toRegs with j := s.j.set d.val T }

/-- R154, JTOA: P[d] is the point (X/Z², Y/Z³) of Z/p, or Inf for Z = 0; for a canonical Z, as every J register's is
(R33). -/
def Obligations.JtoaGivesTheAffinePoint : Prop :=
  ∀ (d : PReg) (a : JReg) (s : State), wordIs (.jtoa d a) 0x33 d a 0 0 ∧
    ((s.toRegs.getJ a).z.toNat < Config.p →
      ∃ A, AffineOf (s.toRegs.getJ a) A ∧ succeedsWith (.jtoa d a) s { s.toRegs with p := s.p.set d.val A })

/-! ### Scalar multiplication -/

/-- R165, PMUL: P[d] is SMul(K, P[a]), K the signed scalar; SMul doubles and adds from the most significant bit down:
SMul(2k + e) is the double of SMul(k), plus A where e = 1; SMul(0) = Inf, SMul(1) = A, SMul(-k, A) = SMul(k, -A), and the
multiples of Inf are Inf. -/
def Obligations.PmulDoublesAndAdds : Prop :=
  (∀ (d a : PReg) (s : State), wordIs (.pmul d a) 0x40 d a 0 0 ∧
    ∀ R, sMul (if s.ksign then -(s.kmag.toNat : Int) else s.kmag.toNat) (s.toRegs.getP a) = .ok R →
      succeedsWith (.pmul d a) s { s.toRegs with p := s.p.set d.val R }) ∧
    (∀ A, sMul 0 A = .ok .inf ∧ sMul 1 A = .ok A ∧ sMul (-1) A = .ok (affNeg A)) ∧
    (∀ (k : Nat) (A R : Point), 0 < k → sMul k A = .ok R →
      sMul ((2 * k : Nat) : Int) A = .ok (affDbl R) ∧ sMul ((2 * k + 1 : Nat) : Int) A = affAdd (affDbl R) A) ∧
    (∀ (k : Nat) (A : Point), 0 < k → sMul (-(k : Int)) A = sMul k (affNeg A)) ∧
    ∀ k : Int, sMul k .inf = .ok .inf

/-- PMUL of a valid point puts into P[d] the point added to itself |K| times, its negative where K < 0 (R165, R139). -/
def Obligations.PmulIsRepeatedAddition : Prop :=
  ∀ (d a : PReg) (s : State), (s.toRegs.getP a).valid = true →
    ∃ R, nTimes s.kmag.toNat (if s.ksign then affNeg (s.toRegs.getP a) else s.toRegs.getP a) = .ok R ∧
      R.valid = true ∧ succeedsWith (.pmul d a) s { s.toRegs with p := s.p.set d.val R }

/-- R167: the properties of SMul for a valid point. -/
def Obligations.ScalarMultiplesCompose : Prop :=
  ∀ (A : Point) (k d : Int), A.valid = true → k.natAbs < 2 ^ 256 → d.natAbs < 2 ^ 256 → (k * d).natAbs < 2 ^ 256 →
    (∃ B, sMul d A = .ok B ∧ B.valid = true ∧ sMul k B = sMul (k * d) A) ∧
      (∃ C, sMul k A = .ok C ∧ C.valid = true ∧ sMul d C = sMul (k * d) A) ∧
      sMul 0 A = .ok .inf ∧ sMul 1 A = .ok A ∧ sMul (-1) A = .ok (affNeg A)

/-! ### Codec -/

/-- R175, PENC: the parity byte, then x in 32 bytes, most significant first; Inf is refused and CBUF stays. -/
def Obligations.PencWritesTheCompressedForm : Prop :=
  ∀ (a : PReg) (s : State), wordIs (.penc a) 0x50 0 a 0 0 ∧
    (s.toRegs.getP a = .inf → failsWith (.penc a) s 5#4) ∧
    ∀ x y, s.toRegs.getP a = .aff x y →
      ∃ buf : Vector Byte 33, buf[0] = (if y.toNat % 2 = 0 then 0x02#8 else 0x03#8) ∧
        (∀ i : Fin 32, (buf[1 + i.val]).toNat = x.toNat / 256 ^ (31 - i.val) % 256) ∧
        succeedsWith (.penc a) s { s.toRegs with cbuf := buf }

/-- R176, PDEC: the checks in the rule's order; on success the root whose parity is the prefix's. -/
def Obligations.PdecReadsTheCompressedForm : Prop :=
  ∀ (d : PReg) (s : State), wordIs (.pdec d) 0x51 d 0 0 0 ∧
    (s.cbuf[0] ≠ 0x02#8 → s.cbuf[0] ≠ 0x03#8 → failsWith (.pdec d) s 4#4) ∧
    (s.cbuf[0] = 0x02#8 ∨ s.cbuf[0] = 0x03#8 → Config.p ≤ cbufNat s → failsWith (.pdec d) s 6#4) ∧
    (s.cbuf[0] = 0x02#8 ∨ s.cbuf[0] = 0x03#8 → cbufNat s < Config.p →
      (¬ ∃ y, y * y % Config.p = (cbufNat s ^ 3 + 7) % Config.p) → failsWith (.pdec d) s 3#4) ∧
    (s.cbuf[0] = 0x02#8 ∨ s.cbuf[0] = 0x03#8 → cbufNat s < Config.p →
      (∃ y, y * y % Config.p = (cbufNat s ^ 3 + 7) % Config.p) →
      ∃ x y : W256, x.toNat = cbufNat s ∧ y.toNat < Config.p ∧ onE x y ∧ y.toNat % 2 = (s.cbuf[0]).toNat - 2 ∧
        succeedsWith (.pdec d) s { s.toRegs with p := s.p.set d.val (.aff x y) })

/-- R177: encoding then decoding gives back a valid point, and decoding then encoding gives back the 33 bytes. -/
def Obligations.CodecRoundTrips : Prop :=
  (∀ (a d : PReg) (s : State) (x y : W256), s.toRegs.getP a = .aff x y → (Point.aff x y).valid = true →
    ∃ t u, exec (.penc a) s = .next t ∧ exec (.pdec d) t = .next u ∧ u.errcode = 0#4 ∧ u.toRegs.getP d = .aff x y) ∧
    ∀ (d : PReg) (s t : State), exec (.pdec d) s = .next t → t.errcode = 0#4 →
      ∃ u, exec (.penc d) t = .next u ∧ u.errcode = 0#4 ∧ u.cbuf = s.cbuf

/-! ### NOP -/

/-- R190, NOP: it completes and changes nothing else. -/
def Obligations.NopChangesNothing : Prop :=
  ∀ s : State, wordIs .nop 0x00 0 0 0 0 ∧ succeedsWith .nop s s.toRegs ∧
    ∀ w : W32, opOf w = 0x00#8 → w ≠ 0#32 → Legal w = false

/-! ### The group -/

/-- R6: no point of the curve has y = 0. -/
def Obligations.NoCurvePointHasYZero : Prop :=
  ∀ x y : W256, x.toNat < Config.p → y.toNat < Config.p → onE x y → y ≠ 0#256

/-- R139: closure, identity, inverse and commutativity of the group law on valid points. -/
def Obligations.GroupLawClosureIdentityInverseCommutativity : Prop :=
  ∀ A B : Point, A.valid = true → B.valid = true →
    (∃ C, affAdd A B = .ok C ∧ C.valid = true) ∧ (affDbl A).valid = true ∧ (affNeg A).valid = true ∧
      affAdd A .inf = .ok A ∧ affAdd .inf A = .ok A ∧ affAdd A (affNeg A) = .ok .inf ∧ affAdd A B = affAdd B A

/-- R139: associativity of the group law on valid points. -/
def Obligations.GroupLawIsAssociative : Prop :=
  ∀ A B C : Point, A.valid = true → B.valid = true → C.valid = true →
    ∃ AB BC R, affAdd A B = .ok AB ∧ affAdd B C = .ok BC ∧ affAdd AB C = .ok R ∧ affAdd A BC = .ok R

/-- R155: the Jacobian datapath agrees with the affine law. -/
def Obligations.JacobianAgreesWithTheAffineLaw : Prop :=
  ∀ (T : Jac) (A : Point), T.valid = true → A.valid = true →
    affAdd T.rep A = .ok (jacAdd T A).rep ∧ (jacDbl T).rep = affDbl T.rep ∧ (Jac.ofPoint A).rep = A

/-! ### The host interface -/

/-- R62: an access that is not 32 bits wide at a word-aligned offset ends with err = 1 (and reads 0) and changes no state;
every other access ends with err = 0. -/
def Obligations.OnlyAlignedWordAccessesAreAdmitted : Prop :=
  ∀ (s : State) (a : Access),
    (a.size ≠ 2#2 ∨ a.addr.toNat % 4 ≠ 0 →
      s.access a = { s with bus := some (if a.we then .write true else .read 0#32 true) }) ∧
    (a.size = 2#2 → a.addr.toNat % 4 = 0 →
      (a.we = true → (s.access a).bus = some (.write false)) ∧
        (a.we = false → ∃ v, (s.access a).bus = some (.read v false)))

/-- R70: a write of CMD while BUSY = 0 is an issue, whatever the word. -/
def Obligations.CmdWriteIssues : Prop :=
  ∀ (s : State) (v : W32), s.busy = false →
    s.access (hostWrite 0x00C#12 v) =
      { s with cmd := v, done := false, errcode := 0#4, busy := true, bus := some (.write false) }

/-- R74: while BUSY = 1 a write of CMD, KSIGN, KMAG, F or CBUF is dropped and sets OVR; a write of ID, P, J, the constants
or a reserved offset is ignored and sets nothing; CTRL and STATUS take effect. -/
def Obligations.BusyWritesAreDropped : Prop :=
  ∀ (s : State) (o : Offset) (v : W32), s.busy = true → o.toNat % 4 = 0 →
    (o.toNat = 0x00C ∨ o.toNat = 0x010 ∨ (0x020 ≤ o.toNat ∧ o.toNat < 0x040) ∨ (0x100 ≤ o.toNat ∧ o.toNat < 0x300) ∨
        (0x900 ≤ o.toNat ∧ o.toNat < 0x924) →
      s.access (hostWrite o v) = { s with ovr := true, bus := some (.write false) }) ∧
    (o.toNat = 0x000 ∨ (0x014 ≤ o.toNat ∧ o.toNat < 0x020) ∨ (0x040 ≤ o.toNat ∧ o.toNat < 0x100) ∨
        (0x300 ≤ o.toNat ∧ o.toNat < 0x900) ∨ 0x924 ≤ o.toNat →
      s.access (hostWrite o v) = { s with bus := some (.write false) }) ∧
    (o.toNat = 0x004 → v[1] = false →
      s.access (hostWrite o v) = { s with irqen := v[0], bus := some (.write false) }) ∧
    (o.toNat = 0x004 → v[1] = true →
      s.access (hostWrite o v) = { s with toRegs := Regs.reset, bus := some (.write false) }) ∧
    (o.toNat = 0x008 →
      s.access (hostWrite o v) =
        { s with done := s.done && !v[1], ovr := s.ovr && !v[4], bus := some (.write false) })

/-- R63, R75: no read changes a register; while BUSY = 1 a read of a data window returns some word (the model's free
value, log entry 2) and a read of any other offset is exact, as every read is while BUSY = 0. A read of CMD returns the
stored word at all times (R29). -/
def Obligations.ReadsHaveNoSideEffect : Prop :=
  (∀ s : State, s.access (hostRead 0x00C#12) = { s with bus := some (.read s.cmd false) }) ∧
  ∀ (s : State) (o : Offset), o.toNat % 4 = 0 →
    (s.access (hostRead o)).toRegs = s.toRegs ∧ (s.access (hostRead o)).agenda = s.agenda ∧
    (s.busy = false → s.access (hostRead o) = { s with bus := some (.read (s.toRegs.readLoc (locate o)) false) }) ∧
    (o.toNat < 0x010 ∨ (0x014 ≤ o.toNat ∧ o.toNat < 0x020) ∨ (0x040 ≤ o.toNat ∧ o.toNat < 0x100) ∨
        (0x300 ≤ o.toNat ∧ o.toNat < 0x700 ∧ 0x44 ≤ (o.toNat - 0x300) % 0x80) ∨
        (0x700 ≤ o.toNat ∧ o.toNat < 0x900 ∧ 0x60 ≤ (o.toNat - 0x700) % 0x80) ∨ 0x924 ≤ o.toNat →
      s.access (hostRead o) = { s with bus := some (.read (s.toRegs.readLoc (locate o)) false) }) ∧
    (s.busy = true → o.toNat = 0x010 ∨ (0x020 ≤ o.toNat ∧ o.toNat < 0x040) ∨ (0x100 ≤ o.toNat ∧ o.toNat < 0x300) ∨
        (0x300 ≤ o.toNat ∧ o.toNat < 0x700 ∧ (o.toNat - 0x300) % 0x80 < 0x44) ∨
        (0x700 ≤ o.toNat ∧ o.toNat < 0x900 ∧ (o.toNat - 0x700) % 0x80 < 0x60) ∨
        (0x900 ≤ o.toNat ∧ o.toNat < 0x924) →
      ∃ v, s.access (hostRead o) = { s with bus := some (.read v false), draws := s.draws + 1 })

/-- R22, R36, R37: ID, the constants and the reserved offsets read their constants at all times and ignore writes. -/
def Obligations.ConstantsAndReservedOffsetsAreFixed : Prop :=
  ∀ (s : State) (v : W32),
    (∀ o : Offset, o.toNat % 4 = 0 →
      o.toNat = 0x000 ∨ (0x014 ≤ o.toNat ∧ o.toNat < 0x020) ∨ (0x040 ≤ o.toNat ∧ o.toNat < 0x100) ∨
        (0x300 ≤ o.toNat ∧ o.toNat < 0x700 ∧ 0x44 ≤ (o.toNat - 0x300) % 0x80) ∨
        (0x700 ≤ o.toNat ∧ o.toNat < 0x900 ∧ 0x60 ≤ (o.toNat - 0x700) % 0x80) ∨ 0x924 ≤ o.toNat →
      s.access (hostWrite o v) = { s with bus := some (.write false) }) ∧
    s.access (hostRead 0x000#12) = { s with bus := some (.read 0x45430100#32 false) } ∧
    (∀ o : Offset, o.toNat % 4 = 0 →
      (0x014 ≤ o.toNat ∧ o.toNat < 0x020) ∨ (0x040 ≤ o.toNat ∧ o.toNat < 0x100) ∨
        (0x300 ≤ o.toNat ∧ o.toNat < 0x700 ∧ 0x44 ≤ (o.toNat - 0x300) % 0x80) ∨
        (0x700 ≤ o.toNat ∧ o.toNat < 0x900 ∧ 0x60 ≤ (o.toNat - 0x700) % 0x80) ∨
        (0x924 ≤ o.toNat ∧ o.toNat < 0xA00) ∨ 0xA80 ≤ o.toNat →
      s.access (hostRead o) = { s with bus := some (.read 0#32 false) }) ∧
    ∀ w : Fin 8,
      s.access (hostRead (BitVec.ofNat 12 (0xA00 + 4 * w.val))) =
        { s with bus := some (.read (BitVec.ofNat 32 ((2 ^ 256 - 2 ^ 32 - 977) / 2 ^ (32 * w.val))) false) } ∧
      s.access (hostRead (BitVec.ofNat 12 (0xA20 + 4 * w.val))) =
        { s with bus := some (.read (BitVec.ofNat 32
          (0x79BE667EF9DCBBAC55A06295CE870B07029BFCDB2DCE28D959F2815B16F81798 / 2 ^ (32 * w.val))) false) } ∧
      s.access (hostRead (BitVec.ofNat 12 (0xA40 + 4 * w.val))) =
        { s with bus := some (.read (BitVec.ofNat 32
          (0x483ADA7726A3C4655DA4FBFC0E1108A8FD17B448A68554199C47D08FFB10D4B8 / 2 ^ (32 * w.val))) false) } ∧
      s.access (hostRead (BitVec.ofNat 12 (0xA60 + 4 * w.val))) =
        { s with bus := some (.read (BitVec.ofNat 32 (7 / 2 ^ (32 * w.val))) false) }

/-- R32, R33: the host's view of the P and J registers while BUSY = 0, and that writes to them are ignored at all times. -/
def Obligations.PointAndTripleWindows : Prop :=
  ∀ s : State,
    (∀ (o : Offset) (v : W32), o.toNat % 4 = 0 → 0x300 ≤ o.toNat → o.toNat < 0x900 →
      s.access (hostWrite o v) = { s with bus := some (.write false) }) ∧
    (s.busy = false → ∀ (i : Fin 8) (w : Fin 8),
      (s.toRegs.getP i = .inf →
        (s.access (hostRead (BitVec.ofNat 12 (0x300 + 0x80 * i.val + 4 * w.val)))).bus = some (.read 0#32 false) ∧
        (s.access (hostRead (BitVec.ofNat 12 (0x320 + 0x80 * i.val + 4 * w.val)))).bus = some (.read 0#32 false) ∧
        (s.access (hostRead (BitVec.ofNat 12 (0x340 + 0x80 * i.val)))).bus = some (.read 1#32 false)) ∧
      ∀ x y, s.toRegs.getP i = .aff x y →
        (s.access (hostRead (BitVec.ofNat 12 (0x300 + 0x80 * i.val + 4 * w.val)))).bus =
          some (.read (BitVec.ofNat 32 (x.toNat / 2 ^ (32 * w.val))) false) ∧
        (s.access (hostRead (BitVec.ofNat 12 (0x320 + 0x80 * i.val + 4 * w.val)))).bus =
          some (.read (BitVec.ofNat 32 (y.toNat / 2 ^ (32 * w.val))) false) ∧
        (s.access (hostRead (BitVec.ofNat 12 (0x340 + 0x80 * i.val)))).bus = some (.read 0#32 false)) ∧
    (s.busy = false → ∀ (i : Fin 4) (w : Fin 8),
      (s.access (hostRead (BitVec.ofNat 12 (0x700 + 0x80 * i.val + 4 * w.val)))).bus =
        some (.read (BitVec.ofNat 32 ((s.toRegs.getJ i).x.toNat / 2 ^ (32 * w.val))) false) ∧
      (s.access (hostRead (BitVec.ofNat 12 (0x720 + 0x80 * i.val + 4 * w.val)))).bus =
        some (.read (BitVec.ofNat 32 ((s.toRegs.getJ i).y.toNat / 2 ^ (32 * w.val))) false) ∧
      (s.access (hostRead (BitVec.ofNat 12 (0x740 + 0x80 * i.val + 4 * w.val)))).bus =
        some (.read (BitVec.ofNat 32 ((s.toRegs.getJ i).z.toNat / 2 ^ (32 * w.val))) false))

/-- R23: CTRL reads IRQEN; a write with bit 1 = 0 sets IRQEN to bit 0; a write with bit 1 = 1 resets the block, and IRQEN
ends 0; both whether or not BUSY = 1. -/
def Obligations.CtrlReadsAndWrites : Prop :=
  ∀ (s : State) (v : W32),
    s.access (hostRead 0x004#12) = { s with bus := some (.read (if s.irqen then 1#32 else 0#32) false) } ∧
    (v[1] = false → s.access (hostWrite 0x004#12 v) = { s with irqen := v[0], bus := some (.write false) }) ∧
    (v[1] = true → s.access (hostWrite 0x004#12 v) = { s with toRegs := Regs.reset, bus := some (.write false) } ∧
      (s.access (hostWrite 0x004#12 v)).irqen = false)

/-- R230, R231, R232: rst_n and CTRL.SRST give the reset state from any state, busy or not, and the reset state is the
table's. -/
def Obligations.ResetGivesTheResetState : Prop :=
  (∀ (s : State) (rest : List Event), s.agenda = .hwReset :: rest → ∃ t, step s = .next t ∧ t.toRegs = Regs.reset) ∧
    (∀ (s : State) (v : W32), v[1] = true → (s.access (hostWrite 0x004#12 v)).toRegs = Regs.reset ∧
      (s.access (hostWrite 0x004#12 v)).bus = some (.write false)) ∧
    Regs.reset =
      { f := #v[0, 0, 0, 0, 0, 0, 0, 0, 0, 0, 0, 0, 0, 0, 0, 0]
        p := #v[.inf, .inf, .inf, .inf, .inf, .inf, .inf, .inf]
        j := #v[⟨0, 0, 0⟩, ⟨0, 0, 0⟩, ⟨0, 0, 0⟩, ⟨0, 0, 0⟩]
        ksign := false, kmag := 0, cbuf := Vector.replicate 33 0
        irqen := false, busy := false, done := false, bool := false, ovr := false, errcode := 0, cmd := 0 } ∧
    State.reset.toRegs = Regs.reset

/-- R24: the word a read of STATUS returns, and what a write of STATUS clears, whether or not BUSY = 1. -/
def Obligations.StatusReadsAndWrites : Prop :=
  ∀ (s : State) (v : W32),
    (∃ r : W32, s.access (hostRead 0x008#12) = { s with bus := some (.read r false) } ∧
      r.toNat = s.errcode.toNat * 256 + s.ovr.toNat * 16 + s.bool.toNat * 8 +
        (if s.errcode = 0#4 then 0 else 4) + s.done.toNat * 2 + s.busy.toNat) ∧
    s.access (hostWrite 0x008#12 v) =
      { s with done := s.done && !v[1], ovr := s.ovr && !v[4], bus := some (.write false) }

/-- R30, R34, R76: while BUSY = 0 a write of a word of F[i] or KMAG changes that word alone, a write of KSIGN stores bit 0,
and a read after the write returns what was written. -/
def Obligations.OperandWindowsReadBackWhatWasWritten : Prop :=
  ∀ (s : State) (v : W32), s.busy = false →
    (∀ (i : Fin 16) (w : Fin 8),
      ∃ x : W256, s.access (hostWrite (BitVec.ofNat 12 (0x100 + 0x20 * i.val + 4 * w.val)) v) =
          { s with f := s.f.set i.val x, bus := some (.write false) } ∧
        (∀ w' : Fin 8, x.toNat / 2 ^ (32 * w'.val) % 2 ^ 32 =
          if w' = w then v.toNat else fNat s i / 2 ^ (32 * w'.val) % 2 ^ 32) ∧
        ((s.access (hostWrite (BitVec.ofNat 12 (0x100 + 0x20 * i.val + 4 * w.val)) v)).access
          (hostRead (BitVec.ofNat 12 (0x100 + 0x20 * i.val + 4 * w.val)))).bus = some (.read v false)) ∧
    (∀ w : Fin 8,
      ∃ x : W256, s.access (hostWrite (BitVec.ofNat 12 (0x020 + 4 * w.val)) v) =
          { s with kmag := x, bus := some (.write false) } ∧
        (∀ w' : Fin 8, x.toNat / 2 ^ (32 * w'.val) % 2 ^ 32 =
          if w' = w then v.toNat else s.kmag.toNat / 2 ^ (32 * w'.val) % 2 ^ 32) ∧
        ((s.access (hostWrite (BitVec.ofNat 12 (0x020 + 4 * w.val)) v)).access
          (hostRead (BitVec.ofNat 12 (0x020 + 4 * w.val)))).bus = some (.read v false)) ∧
    s.access (hostWrite 0x010#12 v) = { s with ksign := v[0], bus := some (.write false) } ∧
    (s.access (hostRead 0x010#12)).bus = some (.read (if s.ksign then 1#32 else 0#32) false)

/-- R35: host word k of CBUF holds bytes 4k to 4k + 3, byte 4k + m in bits [8m+7 : 8m]; word 8 holds CBUF[32] alone. -/
def Obligations.CbufWindowByteLanes : Prop :=
  ∀ s : State, s.busy = false → ∀ k : Fin 9,
    (∃ r : W32, (s.access (hostRead (BitVec.ofNat 12 (0x900 + 4 * k.val)))).bus = some (.read r false) ∧
      ∀ m : Fin 4, r.extractLsb' (8 * m.val) 8 =
        if h : 4 * k.val + m.val < 33 then s.cbuf[4 * k.val + m.val] else 0#8) ∧
    ∀ v : W32, ∃ buf : Vector Byte 33,
      s.access (hostWrite (BitVec.ofNat 12 (0x900 + 4 * k.val)) v) = { s with cbuf := buf, bus := some (.write false) } ∧
        ∀ b : Fin 33, buf[b.val] =
          if b.val / 4 = k.val then v.extractLsb' (8 * (b.val % 4)) 8 else s.cbuf[b.val]

/-- R207: irq = IRQEN & DONE; a STATUS write with bit 1, IRQEN = 0, an issue or a reset ends it; masking does not lose the
pending state; every completion sets it where IRQEN = 1. -/
def Obligations.IrqIsEnabledAndPending : Prop :=
  ∀ s : State, s.toRegs.irq = (s.irqen && s.done) ∧
    (∀ v : W32, v[1] = true → (s.access (hostWrite 0x008#12 v)).toRegs.irq = false) ∧
    (∀ v : W32, v[1] = true ∨ v[0] = false → (s.access (hostWrite 0x004#12 v)).toRegs.irq = false) ∧
    (∀ v : W32, s.busy = false → (s.access (hostWrite 0x00C#12 v)).toRegs.irq = false) ∧
    s.hwReset.toRegs.irq = false ∧
    ((s.access (hostWrite 0x004#12 0#32)).access (hostWrite 0x004#12 1#32)).toRegs.irq = s.done ∧
    ∀ i : Instr, ∃ t, exec i s = .next t ∧ t.toRegs.irq = s.irqen

/-! ### Host and core together -/

/-- R71, R74: whatever accesses the host makes between issue and completion, but for a reset, the command ends with the
results it has when the host does nothing. The agenda that orders them is the model's own field (log entry 1). -/
def Obligations.BusyHostCannotDisturbTheCommand : Prop :=
  ∀ (s : State) (host : List Event), s.busy = true →
    (∀ e ∈ host, e.isAccess = true ∧ e.isReset = false) → s.agenda = host ++ [.core] →
    ∃ t u, Host.Core.run Sys2Proof.core (host.length + 1) s = .next t ∧ step { s with agenda := [] } = .next u ∧
      t.f = u.f ∧ t.p = u.p ∧ t.j = u.j ∧ t.ksign = u.ksign ∧ t.kmag = u.kmag ∧ t.cbuf = u.cbuf ∧ t.bool = u.bool ∧
      t.errcode = u.errcode ∧ t.cmd = u.cmd ∧ t.done = true ∧ t.busy = false ∧ t.agenda = []

/-- R73: from any state with BUSY = 1 and no reset planned, the command in progress completes after no more steps than the
agenda has events, and one. That the core moves once the agenda is empty is the model's form of fairness (log entry 1). -/
def Obligations.CompletionAlwaysHappens : Prop :=
  ∀ s : State, s.busy = true → (∀ e ∈ s.agenda, e.isReset = false) →
    ∃ k t, k ≤ s.agenda.length + 1 ∧ Host.Core.run Sys2Proof.core k s = .next t ∧
      t.busy = false ∧ t.done = true ∧ t.cmd = s.cmd

/-- R205: a write of F racing a completion lands in one of the two orders: dropped with OVR = 1 if it comes first, performed
after the completion if not; a reset racing a completion leaves the reset state in both orders. The two orders are two
agendas (log entry 1). -/
def Obligations.RacingWriteAndCompletion : Prop :=
  ∀ (s u : State) (i : Fin 16) (w : Fin 8) (v z : W32), s.busy = true → step { s with agenda := [] } = .next u →
    z[1] = true →
    (∃ t, Host.Core.run Sys2Proof.core 2 { s with agenda := [.access (hostWrite (BitVec.ofNat 12
        (0x100 + 0x20 * i.val + 4 * w.val)) v), .core] } = .next t ∧ t.toRegs = { u.toRegs with ovr := true }) ∧
      (∃ t, Host.Core.run Sys2Proof.core 2 { s with agenda := [.core, .access (hostWrite (BitVec.ofNat 12
        (0x100 + 0x20 * i.val + 4 * w.val)) v)] } = .next t ∧
        t.toRegs = u.toRegs.setF i (setWord (u.toRegs.getF i) w v)) ∧
      (∃ t, Host.Core.run Sys2Proof.core 2 { s with agenda := [.access (hostWrite 0x004#12 z), .core] } = .next t ∧
        t.toRegs = Regs.reset) ∧
      ∃ t, Host.Core.run Sys2Proof.core 2 { s with agenda := [.core, .access (hostWrite 0x004#12 z)] } = .next t ∧
        t.toRegs = Regs.reset

/-! ### The assembler and the host runtime -/

/-- R100: what the expansion of each pseudo-instruction leaves, run by a host that follows R99's convention, from operands
that are canonical (F) or valid (P). `runCommands` leaves the polls out (log entry 14). -/
def Obligations.PseudoInstructionsGiveTheirResults : Prop :=
  (∀ (d a : FReg) (s : State), fNat s a < Config.p →
    (∃ t, runCommands (Pseudo.expand (.fsqr d a)) s = .next t ∧ t.errcode = 0#4 ∧
      fNat t d = fNat s a * fNat s a % Config.p) ∧
    ∃ t, runCommands (Pseudo.expand (.fdbl d a)) s = .next t ∧ t.errcode = 0#4 ∧ fNat t d = 2 * fNat s a % Config.p) ∧
  (∀ (d a x : FReg) (s : State), fNat s a < Config.p → x ≠ a →
    (∃ t, runCommands (Pseudo.expand (.fmov d a x)) s = .next t ∧ t.errcode = 0#4 ∧ fNat t d = fNat s a) ∧
    (∃ t, runCommands (Pseudo.expand (.fneg d a x)) s = .next t ∧ t.errcode = 0#4 ∧
      fNat t d = (Config.p - fNat s a) % Config.p) ∧
    (∃ t, runCommands (Pseudo.expand (.tomont d a x)) s = .next t ∧ t.errcode = 0#4 ∧
      fNat t d = fNat s a * 2 ^ 256 % Config.p) ∧
    ∃ t, runCommands (Pseudo.expand (.frommont d a x)) s = .next t ∧ t.errcode = 0#4 ∧
      fNat t d < Config.p ∧ fNat t d * 2 ^ 256 % Config.p = fNat s a) ∧
  (∀ (d a b x : FReg) (s : State), fNat s a < Config.p → fNat s b < Config.p → x ≠ a →
    (fNat s b ≠ 0 → ∃ t, runCommands (Pseudo.expand (.fdiv d a b x)) s = .next t ∧ t.errcode = 0#4 ∧
      fNat t d < Config.p ∧ fNat t d * fNat s b % Config.p = fNat s a) ∧
    (fNat s b = 0 → ∃ t, runCommands (Pseudo.expand (.fdiv d a b x)) s = .next t ∧ t.errcode = 2#4)) ∧
  (∀ (d a : PReg) (s : State), (s.toRegs.getP a).valid = true →
    (∃ t, runCommands (Pseudo.expand (.pmov d a)) s = .next t ∧ t.errcode = 0#4 ∧
      t.toRegs.getP d = s.toRegs.getP a) ∧
    (d ≠ a → ∃ t, runCommands (Pseudo.expand (.pinf d a)) s = .next t ∧ t.errcode = 0#4 ∧ t.toRegs.getP d = .inf)) ∧
  ∀ (d a b x : PReg) (s : State), (s.toRegs.getP a).valid = true → (s.toRegs.getP b).valid = true → x ≠ a →
    ∃ t R, runCommands (Pseudo.expand (.psub d a b x)) s = .next t ∧ t.errcode = 0#4 ∧
      affAdd (s.toRegs.getP a) (affNeg (s.toRegs.getP b)) = .ok R ∧ t.toRegs.getP d = R

/-- R99, R101: the disassembly of a legal word assembles to the command of that word; an illegal word is printed as .word
and eight digits. Spaces, commas and letter case are the model's choice (log entry 8). -/
def Obligations.AssemblerReadsTheDisassembly : Prop :=
  (∀ (w : W32) (i : Instr), decode w = some i → assemble (disassemble w) = some [i]) ∧
    ∀ w : W32, Legal w = false →
      disassemble w = ['.', 'w', 'o', 'r', 'd', ' ', '0', 'x'] ++
        (List.map (fun k => hexDigit (w.toNat / 16 ^ k % 16)) [7, 6, 5, 4, 3, 2, 1, 0])

/-- R99: while BUSY = 0 `.wr256` leaves the value in F[i] or KMAG, `.wrk` leaves a scalar of at most 256 bits in K, and
`.wrcbuf` leaves the 33 bytes in CBUF; nothing else changes but what the last access returned. -/
def Obligations.HostDirectivesWriteWholeRegisters : Prop :=
  ∀ s : State, s.busy = false →
    (∀ (i : Fin 16) (v : W256), s.accesses (HostLine.accesses (.wr256 (.f i) v)) =
      { s with f := s.f.set i.val v, bus := some (.write false) }) ∧
    (∀ v : W256, s.accesses (HostLine.accesses (.wr256 .kmag v)) = { s with kmag := v, bus := some (.write false) }) ∧
    (∀ k : Int, k.natAbs < 2 ^ 256 → ∃ m : W256, m.toNat = k.natAbs ∧
      s.accesses (HostLine.accesses (.wrk k)) =
        { s with ksign := decide (k < 0), kmag := m, bus := some (.write false) }) ∧
    ∀ buf : Vector Byte 33, s.accesses (HostLine.accesses (.wrcbuf buf)) =
      { s with cbuf := buf, bus := some (.write false) }
end

