-- ==== Sys2Proof/Laws/Arith.lean ====
section
/-! SUPPORT. Sys2Proof/Laws/Arith.lean: what the modular arithmetic computes: its values as natural numbers and in Z/p. -/

namespace Sys2Proof.Machine

theorem p_pos : 0 < Config.p := by decide

theorem p_lt : Config.p < 2 ^ 256 := by decide

theorem ival_nonneg (x : W256) : 0 ≤ ival x := Int.natCast_nonneg _

theorem emod_p_nonneg (a : Int) : 0 ≤ a % (Config.p : Int) :=
  Int.emod_nonneg a (by decide)

theorem emod_p_lt (a : Int) : a % (Config.p : Int) < Config.p :=
  Int.emod_lt_of_pos a (by decide)

/-- The value of `modP`. -/
@[simp] theorem toNat_modP (a : Int) : (modP a).toNat = (a % (Config.p : Int)).toNat := by
  have h1 := emod_p_nonneg a
  have h2 := emod_p_lt a
  have h3 := p_lt
  unfold modP
  rw [BitVec.toNat_ofNat]
  apply Nat.mod_eq_of_lt
  omega

/-- `modP` of a natural number. -/
theorem toNat_modP_natCast (n : Nat) : (modP (n : Int)).toNat = n % Config.p := by
  rw [toNat_modP, ← Int.natCast_mod, Int.toNat_natCast]

/-- Every reduced value is canonical (R7). -/
theorem modP_lt (a : Int) : (modP a).toNat < Config.p := by
  have h1 := emod_p_nonneg a
  have h2 := emod_p_lt a
  rw [toNat_modP]
  omega

@[simp] theorem canonical_modP (a : Int) : canonical (modP a) = true := by
  simpa [canonical] using modP_lt a

theorem canonical_iff (x : W256) : canonical x = true ↔ x.toNat < Config.p := by simp [canonical]

theorem powMod_zero (m a e : Nat) : powMod m a 0 e = 1 % m := rfl

theorem powMod_succ (m a bits e : Nat) :
    powMod m a (bits + 1) e =
      if e % 2 = 1 then powMod m a bits (e / 2) * powMod m a bits (e / 2) % m * a % m
      else powMod m a bits (e / 2) * powMod m a bits (e / 2) % m := rfl

/-- `powMod` is exponentiation modulo m. -/
theorem powMod_eq (m a : Nat) : ∀ bits e : Nat, e < 2 ^ bits → powMod m a bits e = a ^ e % m
  | 0, e, h => by
    have : e = 0 := by simpa using h
    simp [this, powMod_zero]
  | bits + 1, e, h => by
    have ih := powMod_eq m a bits (e / 2) (by omega)
    have hsq : powMod m a bits (e / 2) * powMod m a bits (e / 2) % m = a ^ (2 * (e / 2)) % m := by
      rw [ih, ← Nat.mul_mod, ← pow_add, two_mul]
    rw [powMod_succ, hsq]
    split
    · rw [Nat.mod_mul_mod, ← pow_succ]
      congr 2
      omega
    · congr 2
      omega

/-- The value of `powP`. -/
theorem toNat_powP (x : W256) (e : Nat) (h : e < 2 ^ 256) : (powP x e).toNat = x.toNat ^ e % Config.p := by
  unfold powP
  rw [powMod_eq _ _ _ _ h, BitVec.toNat_ofNat]
  exact Nat.mod_eq_of_lt (lt_trans (Nat.mod_lt _ p_pos) p_lt)

theorem powP_lt (x : W256) (e : Nat) (h : e < 2 ^ 256) : (powP x e).toNat < Config.p := by
  rw [toNat_powP x e h]
  exact Nat.mod_lt _ p_pos

/-- The inverse where R7 defines it. -/
theorem invP_eq_powP {x : W256} (h0 : x ≠ 0#256) (h : x.toNat < Config.p) : invP x = powP x (Config.p - 2) := by
  have : x.toNat ≠ 0 := fun e => h0 (BitVec.eq_of_toNat_eq (by simpa using e))
  unfold invP
  rw [if_neg (by omega)]

theorem canonical_invP {x : W256} (h0 : x ≠ 0#256) (h : x.toNat < Config.p) : canonical (invP x) = true := by
  rw [invP_eq_powP h0 h]
  exact (canonical_iff _).2 (powP_lt x _ (by decide))

theorem canonical_sqrtCandidate (x : W256) : canonical (sqrtCandidate x) = true :=
  (canonical_iff _).2 (powP_lt x _ (by decide))

/-! ### In Z/p -/

/-- The element of Z/p a register value stands for is the cast of its integer. -/
theorem cast_ival (x : W256) : ((ival x : Int) : ZMod Config.p) = (x.toNat : ZMod Config.p) := by
  simp [ival]

/-- `modP` is the reduction Z → Z/p. -/
theorem cast_modP (a : Int) : ((modP a).toNat : ZMod Config.p) = (a : ZMod Config.p) := by
  rw [toNat_modP]
  have h : (((a % (Config.p : Int)).toNat : Nat) : Int) = a % (Config.p : Int) :=
    Int.toNat_of_nonneg (emod_p_nonneg a)
  rw [← Int.cast_natCast, h]
  exact (ZMod.intCast_mod a Config.p)

/-- `powP` is exponentiation in Z/p. -/
theorem cast_powP (x : W256) (e : Nat) (h : e < 2 ^ 256) :
    ((powP x e).toNat : ZMod Config.p) = (x.toNat : ZMod Config.p) ^ e := by
  rw [toNat_powP x e h, ZMod.natCast_mod, Nat.cast_pow]

/-- Canonical values are equal as elements of Z/p only if they are equal. -/
theorem eq_of_cast_eq {x y : W256} (hx : x.toNat < Config.p) (hy : y.toNat < Config.p)
    (h : (x.toNat : ZMod Config.p) = (y.toNat : ZMod Config.p)) : x = y := by
  apply BitVec.eq_of_toNat_eq
  have := (ZMod.natCast_eq_natCast_iff' _ _ _).1 h
  rwa [Nat.mod_eq_of_lt hx, Nat.mod_eq_of_lt hy] at this

/-- A canonical value is 0 exactly if it is 0 in Z/p. -/
theorem cast_eq_zero_iff {x : W256} (hx : x.toNat < Config.p) : (x.toNat : ZMod Config.p) = 0 ↔ x = 0#256 := by
  constructor
  · intro h
    exact eq_of_cast_eq hx (by decide) (by simpa using h)
  · rintro rfl
    simp

/-- `modP a` is 0 exactly if a is 0 in Z/p. -/
theorem modP_eq_zero_iff (a : Int) : modP a = 0#256 ↔ (a : ZMod Config.p) = 0 := by
  rw [← cast_modP, cast_eq_zero_iff (modP_lt a)]

/-- The membership predicate in Z/p (R1, R129). -/
theorem onCurve_iff (x y : W256) :
    onCurve x y = true ↔ (y.toNat : ZMod Config.p) ^ 2 = (x.toNat : ZMod Config.p) ^ 3 + 7 := by
  unfold onCurve
  rw [decide_eq_true_iff, ← Int.dvd_iff_emod_eq_zero, ← ZMod.intCast_zmod_eq_zero_iff_dvd]
  have hb : (Config.b.toNat : ZMod Config.p) = 7 := by
    have : Config.b.toNat = 7 := by decide
    rw [this]; rfl
  push_cast
  rw [cast_ival, cast_ival, cast_ival, hb, sub_eq_zero]
  simp only [Config.a, Nat.cast_zero, zero_mul, add_zero]
  constructor <;> intro h <;> linear_combination h

end Sys2Proof.Machine
end

