-- ==== Sys2Proof/Laws/Decode.lean ====
section
/-! SUPPORT. Sys2Proof/Laws/Decode.lean: the fields of a word made from fields (R90), and the field readers on the fields
the encoder writes. -/

namespace Sys2Proof

@[simp] theorem opOf_mkWord (op : BitVec 8) (rd rs1 rs2 imm : BitVec 4) :
    opOf (mkWord op rd rs1 rs2 imm) = op := by
  unfold opOf mkWord
  ext i hi
  interval_cases i <;> simp

@[simp] theorem rdOf_mkWord (op : BitVec 8) (rd rs1 rs2 imm : BitVec 4) :
    rdOf (mkWord op rd rs1 rs2 imm) = rd := by
  unfold rdOf mkWord
  ext i hi
  interval_cases i <;> simp

@[simp] theorem rs1Of_mkWord (op : BitVec 8) (rd rs1 rs2 imm : BitVec 4) :
    rs1Of (mkWord op rd rs1 rs2 imm) = rs1 := by
  unfold rs1Of mkWord
  ext i hi
  interval_cases i <;> simp

@[simp] theorem rs2Of_mkWord (op : BitVec 8) (rd rs1 rs2 imm : BitVec 4) :
    rs2Of (mkWord op rd rs1 rs2 imm) = rs2 := by
  unfold rs2Of mkWord
  ext i hi
  interval_cases i <;> simp

@[simp] theorem immOf_mkWord (op : BitVec 8) (rd rs1 rs2 imm : BitVec 4) :
    immOf (mkWord op rd rs1 rs2 imm) = imm := by
  unfold immOf mkWord
  ext i hi
  interval_cases i <;> simp

@[simp] theorem rsvOf_mkWord (op : BitVec 8) (rd rs1 rs2 imm : BitVec 4) :
    rsvOf (mkWord op rd rs1 rs2 imm) = 0#8 := by
  unfold rsvOf mkWord
  ext i hi
  interval_cases i <;> simp

/-- A word is made of its fields when its reserved bits are 0. -/
theorem mkWord_fields (w : W32) (h : rsvOf w = 0#8) :
    mkWord (opOf w) (rdOf w) (rs1Of w) (rs2Of w) (immOf w) = w := by
  have h' : ∀ i : Nat, (hi : i < 8) → w[24 + i]'(by omega) = false := fun i hi => by
    have := congrArg (fun x => x.getLsbD i) h
    simpa [rsvOf, hi, BitVec.getLsbD_eq_getElem (show 24 + i < 32 by omega)] using this
  unfold mkWord opOf rdOf rs1Of rs2Of immOf
  ext i hi
  by_cases h24 : i < 24
  · interval_cases i <;> simp
  · obtain ⟨k, rfl⟩ : ∃ k, i = 24 + k := ⟨i - 24, by omega⟩
    rw [h' k (by omega)]
    have hk : k < 8 := by omega
    interval_cases k <;> simp

@[simp] theorem fField_idx (i : FReg) : fField (idx i) = i := by revert i; decide
@[simp] theorem pField_idx (i : PReg) : pField (idx i) = .ok i := by revert i; decide
@[simp] theorem jField_idx (i : JReg) : jField (idx i) = .ok i := by revert i; decide

theorem idx_fField (x : BitVec 4) : idx (fField x) = x := by revert x; decide
theorem idx_of_pField {x : BitVec 4} {i : PReg} (h : pField x = .ok i) : idx i = x := by revert x i; decide
theorem idx_of_jField {x : BitVec 4} {i : JReg} (h : jField x = .ok i) : idx i = x := by revert x i; decide

@[simp] theorem unused_zero : unused 0#4 = .ok () := rfl

/-- An unused field is accepted only if it is 0 (R94). -/
theorem eq_zero_of_unused {x : BitVec 4} {u : Unit} (h : unused x = .ok u) : x = 0#4 := by
  unfold unused at h
  split at h
  · assumption
  · cases h

theorem selField_legal {c : Selector} (h : Selector.legal c = true) : selField c = .ok c := by simp [selField, h]

end Sys2Proof
end

