-- ==== Sys2Proof/Laws/State.lean ====
section
/-! SUPPORT. Sys2Proof/Laws/State.lean: what each update of the state does to each field, so that no proof unfolds a record
update. -/

namespace Sys2Proof.Machine


/-! ### `Regs.setF` -/

@[simp] theorem Regs.setF_f (r : Regs) (i : Fin 16) (v : W256) : (r.setF i v).f = r.f.set i.val v := rfl
@[simp] theorem Regs.setF_p (r : Regs) (i : Fin 16) (v : W256) : (r.setF i v).p = r.p := rfl
@[simp] theorem Regs.setF_j (r : Regs) (i : Fin 16) (v : W256) : (r.setF i v).j = r.j := rfl
@[simp] theorem Regs.setF_ksign (r : Regs) (i : Fin 16) (v : W256) : (r.setF i v).ksign = r.ksign := rfl
@[simp] theorem Regs.setF_kmag (r : Regs) (i : Fin 16) (v : W256) : (r.setF i v).kmag = r.kmag := rfl
@[simp] theorem Regs.setF_cbuf (r : Regs) (i : Fin 16) (v : W256) : (r.setF i v).cbuf = r.cbuf := rfl
@[simp] theorem Regs.setF_irqen (r : Regs) (i : Fin 16) (v : W256) : (r.setF i v).irqen = r.irqen := rfl
@[simp] theorem Regs.setF_busy (r : Regs) (i : Fin 16) (v : W256) : (r.setF i v).busy = r.busy := rfl
@[simp] theorem Regs.setF_done (r : Regs) (i : Fin 16) (v : W256) : (r.setF i v).done = r.done := rfl
@[simp] theorem Regs.setF_bool (r : Regs) (i : Fin 16) (v : W256) : (r.setF i v).bool = r.bool := rfl
@[simp] theorem Regs.setF_ovr (r : Regs) (i : Fin 16) (v : W256) : (r.setF i v).ovr = r.ovr := rfl
@[simp] theorem Regs.setF_errcode (r : Regs) (i : Fin 16) (v : W256) : (r.setF i v).errcode = r.errcode := rfl
@[simp] theorem Regs.setF_cmd (r : Regs) (i : Fin 16) (v : W256) : (r.setF i v).cmd = r.cmd := rfl

/-! ### `Regs.setP` -/

@[simp] theorem Regs.setP_f (r : Regs) (i : Fin 8) (A : Point) : (r.setP i A).f = r.f := rfl
@[simp] theorem Regs.setP_p (r : Regs) (i : Fin 8) (A : Point) : (r.setP i A).p = r.p.set i.val A := rfl
@[simp] theorem Regs.setP_j (r : Regs) (i : Fin 8) (A : Point) : (r.setP i A).j = r.j := rfl
@[simp] theorem Regs.setP_ksign (r : Regs) (i : Fin 8) (A : Point) : (r.setP i A).ksign = r.ksign := rfl
@[simp] theorem Regs.setP_kmag (r : Regs) (i : Fin 8) (A : Point) : (r.setP i A).kmag = r.kmag := rfl
@[simp] theorem Regs.setP_cbuf (r : Regs) (i : Fin 8) (A : Point) : (r.setP i A).cbuf = r.cbuf := rfl
@[simp] theorem Regs.setP_irqen (r : Regs) (i : Fin 8) (A : Point) : (r.setP i A).irqen = r.irqen := rfl
@[simp] theorem Regs.setP_busy (r : Regs) (i : Fin 8) (A : Point) : (r.setP i A).busy = r.busy := rfl
@[simp] theorem Regs.setP_done (r : Regs) (i : Fin 8) (A : Point) : (r.setP i A).done = r.done := rfl
@[simp] theorem Regs.setP_bool (r : Regs) (i : Fin 8) (A : Point) : (r.setP i A).bool = r.bool := rfl
@[simp] theorem Regs.setP_ovr (r : Regs) (i : Fin 8) (A : Point) : (r.setP i A).ovr = r.ovr := rfl
@[simp] theorem Regs.setP_errcode (r : Regs) (i : Fin 8) (A : Point) : (r.setP i A).errcode = r.errcode := rfl
@[simp] theorem Regs.setP_cmd (r : Regs) (i : Fin 8) (A : Point) : (r.setP i A).cmd = r.cmd := rfl

/-! ### `Regs.setJ` -/

@[simp] theorem Regs.setJ_f (r : Regs) (i : Fin 4) (T : Jac) : (r.setJ i T).f = r.f := rfl
@[simp] theorem Regs.setJ_p (r : Regs) (i : Fin 4) (T : Jac) : (r.setJ i T).p = r.p := rfl
@[simp] theorem Regs.setJ_j (r : Regs) (i : Fin 4) (T : Jac) : (r.setJ i T).j = r.j.set i.val T := rfl
@[simp] theorem Regs.setJ_ksign (r : Regs) (i : Fin 4) (T : Jac) : (r.setJ i T).ksign = r.ksign := rfl
@[simp] theorem Regs.setJ_kmag (r : Regs) (i : Fin 4) (T : Jac) : (r.setJ i T).kmag = r.kmag := rfl
@[simp] theorem Regs.setJ_cbuf (r : Regs) (i : Fin 4) (T : Jac) : (r.setJ i T).cbuf = r.cbuf := rfl
@[simp] theorem Regs.setJ_irqen (r : Regs) (i : Fin 4) (T : Jac) : (r.setJ i T).irqen = r.irqen := rfl
@[simp] theorem Regs.setJ_busy (r : Regs) (i : Fin 4) (T : Jac) : (r.setJ i T).busy = r.busy := rfl
@[simp] theorem Regs.setJ_done (r : Regs) (i : Fin 4) (T : Jac) : (r.setJ i T).done = r.done := rfl
@[simp] theorem Regs.setJ_bool (r : Regs) (i : Fin 4) (T : Jac) : (r.setJ i T).bool = r.bool := rfl
@[simp] theorem Regs.setJ_ovr (r : Regs) (i : Fin 4) (T : Jac) : (r.setJ i T).ovr = r.ovr := rfl
@[simp] theorem Regs.setJ_errcode (r : Regs) (i : Fin 4) (T : Jac) : (r.setJ i T).errcode = r.errcode := rfl
@[simp] theorem Regs.setJ_cmd (r : Regs) (i : Fin 4) (T : Jac) : (r.setJ i T).cmd = r.cmd := rfl

/-! ### `Regs.setCbuf` -/

@[simp] theorem Regs.setCbuf_f (r : Regs) (c : Vector Byte 33) : (r.setCbuf c).f = r.f := rfl
@[simp] theorem Regs.setCbuf_p (r : Regs) (c : Vector Byte 33) : (r.setCbuf c).p = r.p := rfl
@[simp] theorem Regs.setCbuf_j (r : Regs) (c : Vector Byte 33) : (r.setCbuf c).j = r.j := rfl
@[simp] theorem Regs.setCbuf_ksign (r : Regs) (c : Vector Byte 33) : (r.setCbuf c).ksign = r.ksign := rfl
@[simp] theorem Regs.setCbuf_kmag (r : Regs) (c : Vector Byte 33) : (r.setCbuf c).kmag = r.kmag := rfl
@[simp] theorem Regs.setCbuf_cbuf (r : Regs) (c : Vector Byte 33) : (r.setCbuf c).cbuf = c := rfl
@[simp] theorem Regs.setCbuf_irqen (r : Regs) (c : Vector Byte 33) : (r.setCbuf c).irqen = r.irqen := rfl
@[simp] theorem Regs.setCbuf_busy (r : Regs) (c : Vector Byte 33) : (r.setCbuf c).busy = r.busy := rfl
@[simp] theorem Regs.setCbuf_done (r : Regs) (c : Vector Byte 33) : (r.setCbuf c).done = r.done := rfl
@[simp] theorem Regs.setCbuf_bool (r : Regs) (c : Vector Byte 33) : (r.setCbuf c).bool = r.bool := rfl
@[simp] theorem Regs.setCbuf_ovr (r : Regs) (c : Vector Byte 33) : (r.setCbuf c).ovr = r.ovr := rfl
@[simp] theorem Regs.setCbuf_errcode (r : Regs) (c : Vector Byte 33) : (r.setCbuf c).errcode = r.errcode := rfl
@[simp] theorem Regs.setCbuf_cmd (r : Regs) (c : Vector Byte 33) : (r.setCbuf c).cmd = r.cmd := rfl

/-! ### `Regs.setBool` -/

@[simp] theorem Regs.setBool_f (r : Regs) (b : Bool) : (r.setBool b).f = r.f := rfl
@[simp] theorem Regs.setBool_p (r : Regs) (b : Bool) : (r.setBool b).p = r.p := rfl
@[simp] theorem Regs.setBool_j (r : Regs) (b : Bool) : (r.setBool b).j = r.j := rfl
@[simp] theorem Regs.setBool_ksign (r : Regs) (b : Bool) : (r.setBool b).ksign = r.ksign := rfl
@[simp] theorem Regs.setBool_kmag (r : Regs) (b : Bool) : (r.setBool b).kmag = r.kmag := rfl
@[simp] theorem Regs.setBool_cbuf (r : Regs) (b : Bool) : (r.setBool b).cbuf = r.cbuf := rfl
@[simp] theorem Regs.setBool_irqen (r : Regs) (b : Bool) : (r.setBool b).irqen = r.irqen := rfl
@[simp] theorem Regs.setBool_busy (r : Regs) (b : Bool) : (r.setBool b).busy = r.busy := rfl
@[simp] theorem Regs.setBool_done (r : Regs) (b : Bool) : (r.setBool b).done = r.done := rfl
@[simp] theorem Regs.setBool_bool (r : Regs) (b : Bool) : (r.setBool b).bool = b := rfl
@[simp] theorem Regs.setBool_ovr (r : Regs) (b : Bool) : (r.setBool b).ovr = r.ovr := rfl
@[simp] theorem Regs.setBool_errcode (r : Regs) (b : Bool) : (r.setBool b).errcode = r.errcode := rfl
@[simp] theorem Regs.setBool_cmd (r : Regs) (b : Bool) : (r.setBool b).cmd = r.cmd := rfl

/-! ### `State.issue` -/

@[simp] theorem State.issue_f (s : State) (v : W32) : (s.issue v).f = s.f := rfl
@[simp] theorem State.issue_p (s : State) (v : W32) : (s.issue v).p = s.p := rfl
@[simp] theorem State.issue_j (s : State) (v : W32) : (s.issue v).j = s.j := rfl
@[simp] theorem State.issue_ksign (s : State) (v : W32) : (s.issue v).ksign = s.ksign := rfl
@[simp] theorem State.issue_kmag (s : State) (v : W32) : (s.issue v).kmag = s.kmag := rfl
@[simp] theorem State.issue_cbuf (s : State) (v : W32) : (s.issue v).cbuf = s.cbuf := rfl
@[simp] theorem State.issue_irqen (s : State) (v : W32) : (s.issue v).irqen = s.irqen := rfl
@[simp] theorem State.issue_busy (s : State) (v : W32) : (s.issue v).busy = true := rfl
@[simp] theorem State.issue_done (s : State) (v : W32) : (s.issue v).done = false := rfl
@[simp] theorem State.issue_bool (s : State) (v : W32) : (s.issue v).bool = s.bool := rfl
@[simp] theorem State.issue_ovr (s : State) (v : W32) : (s.issue v).ovr = s.ovr := rfl
@[simp] theorem State.issue_errcode (s : State) (v : W32) : (s.issue v).errcode = 0#4 := rfl
@[simp] theorem State.issue_cmd (s : State) (v : W32) : (s.issue v).cmd = v := rfl
@[simp] theorem State.issue_agenda (s : State) (v : W32) : (s.issue v).agenda = s.agenda := rfl
@[simp] theorem State.issue_bus (s : State) (v : W32) : (s.issue v).bus = s.bus := rfl
@[simp] theorem State.issue_draws (s : State) (v : W32) : (s.issue v).draws = s.draws := rfl

/-! ### `State.raiseErr` -/

@[simp] theorem State.raiseErr_f (s : State) (e : Err) : (s.raiseErr e).f = s.f := rfl
@[simp] theorem State.raiseErr_p (s : State) (e : Err) : (s.raiseErr e).p = s.p := rfl
@[simp] theorem State.raiseErr_j (s : State) (e : Err) : (s.raiseErr e).j = s.j := rfl
@[simp] theorem State.raiseErr_ksign (s : State) (e : Err) : (s.raiseErr e).ksign = s.ksign := rfl
@[simp] theorem State.raiseErr_kmag (s : State) (e : Err) : (s.raiseErr e).kmag = s.kmag := rfl
@[simp] theorem State.raiseErr_cbuf (s : State) (e : Err) : (s.raiseErr e).cbuf = s.cbuf := rfl
@[simp] theorem State.raiseErr_irqen (s : State) (e : Err) : (s.raiseErr e).irqen = s.irqen := rfl
@[simp] theorem State.raiseErr_busy (s : State) (e : Err) : (s.raiseErr e).busy = false := rfl
@[simp] theorem State.raiseErr_done (s : State) (e : Err) : (s.raiseErr e).done = true := rfl
@[simp] theorem State.raiseErr_bool (s : State) (e : Err) : (s.raiseErr e).bool = s.bool := rfl
@[simp] theorem State.raiseErr_ovr (s : State) (e : Err) : (s.raiseErr e).ovr = s.ovr := rfl
@[simp] theorem State.raiseErr_errcode (s : State) (e : Err) : (s.raiseErr e).errcode = e.code := rfl
@[simp] theorem State.raiseErr_cmd (s : State) (e : Err) : (s.raiseErr e).cmd = s.cmd := rfl
@[simp] theorem State.raiseErr_agenda (s : State) (e : Err) : (s.raiseErr e).agenda = s.agenda := rfl
@[simp] theorem State.raiseErr_bus (s : State) (e : Err) : (s.raiseErr e).bus = s.bus := rfl
@[simp] theorem State.raiseErr_draws (s : State) (e : Err) : (s.raiseErr e).draws = s.draws := rfl

/-! ### `State.clearDone` -/

@[simp] theorem State.clearDone_f (s : State) : (s.clearDone).f = s.f := rfl
@[simp] theorem State.clearDone_p (s : State) : (s.clearDone).p = s.p := rfl
@[simp] theorem State.clearDone_j (s : State) : (s.clearDone).j = s.j := rfl
@[simp] theorem State.clearDone_ksign (s : State) : (s.clearDone).ksign = s.ksign := rfl
@[simp] theorem State.clearDone_kmag (s : State) : (s.clearDone).kmag = s.kmag := rfl
@[simp] theorem State.clearDone_cbuf (s : State) : (s.clearDone).cbuf = s.cbuf := rfl
@[simp] theorem State.clearDone_irqen (s : State) : (s.clearDone).irqen = s.irqen := rfl
@[simp] theorem State.clearDone_busy (s : State) : (s.clearDone).busy = s.busy := rfl
@[simp] theorem State.clearDone_done (s : State) : (s.clearDone).done = false := rfl
@[simp] theorem State.clearDone_bool (s : State) : (s.clearDone).bool = s.bool := rfl
@[simp] theorem State.clearDone_ovr (s : State) : (s.clearDone).ovr = s.ovr := rfl
@[simp] theorem State.clearDone_errcode (s : State) : (s.clearDone).errcode = s.errcode := rfl
@[simp] theorem State.clearDone_cmd (s : State) : (s.clearDone).cmd = s.cmd := rfl
@[simp] theorem State.clearDone_agenda (s : State) : (s.clearDone).agenda = s.agenda := rfl
@[simp] theorem State.clearDone_bus (s : State) : (s.clearDone).bus = s.bus := rfl
@[simp] theorem State.clearDone_draws (s : State) : (s.clearDone).draws = s.draws := rfl

/-! ### `State.succeed` -/

@[simp] theorem State.succeed_f (s : State) (r : Regs) : (s.succeed r).f = r.f := rfl
@[simp] theorem State.succeed_p (s : State) (r : Regs) : (s.succeed r).p = r.p := rfl
@[simp] theorem State.succeed_j (s : State) (r : Regs) : (s.succeed r).j = r.j := rfl
@[simp] theorem State.succeed_ksign (s : State) (r : Regs) : (s.succeed r).ksign = r.ksign := rfl
@[simp] theorem State.succeed_kmag (s : State) (r : Regs) : (s.succeed r).kmag = r.kmag := rfl
@[simp] theorem State.succeed_cbuf (s : State) (r : Regs) : (s.succeed r).cbuf = r.cbuf := rfl
@[simp] theorem State.succeed_irqen (s : State) (r : Regs) : (s.succeed r).irqen = r.irqen := rfl
@[simp] theorem State.succeed_busy (s : State) (r : Regs) : (s.succeed r).busy = false := rfl
@[simp] theorem State.succeed_done (s : State) (r : Regs) : (s.succeed r).done = true := rfl
@[simp] theorem State.succeed_bool (s : State) (r : Regs) : (s.succeed r).bool = r.bool := rfl
@[simp] theorem State.succeed_ovr (s : State) (r : Regs) : (s.succeed r).ovr = r.ovr := rfl
@[simp] theorem State.succeed_errcode (s : State) (r : Regs) : (s.succeed r).errcode = 0#4 := rfl
@[simp] theorem State.succeed_cmd (s : State) (r : Regs) : (s.succeed r).cmd = r.cmd := rfl
@[simp] theorem State.succeed_agenda (s : State) (r : Regs) : (s.succeed r).agenda = s.agenda := rfl
@[simp] theorem State.succeed_bus (s : State) (r : Regs) : (s.succeed r).bus = s.bus := rfl
@[simp] theorem State.succeed_draws (s : State) (r : Regs) : (s.succeed r).draws = s.draws := rfl

/-! ### `State.resetRegs` and `State.hwReset` -/

@[simp] theorem State.resetRegs_toRegs (s : State) : s.resetRegs.toRegs = Regs.reset := rfl
@[simp] theorem State.resetRegs_agenda (s : State) : s.resetRegs.agenda = s.agenda := rfl
@[simp] theorem State.resetRegs_bus (s : State) : s.resetRegs.bus = s.bus := rfl
@[simp] theorem State.resetRegs_draws (s : State) : s.resetRegs.draws = s.draws := rfl
@[simp] theorem State.hwReset_toRegs (s : State) : s.hwReset.toRegs = Regs.reset := rfl
@[simp] theorem State.hwReset_agenda (s : State) : s.hwReset.agenda = s.agenda := rfl
@[simp] theorem State.hwReset_bus (s : State) : s.hwReset.bus = none := rfl
@[simp] theorem State.hwReset_draws (s : State) : s.hwReset.draws = s.draws := rfl

end Sys2Proof.Machine
end

