-- ==== Sys2Proof/Laws/Ops.lean ====
section
/-! SUPPORT. Sys2Proof/Laws/Ops.lean: what the shared operations do: the register files, completion, and the one case
analysis of `exec` and `step`. -/

namespace Sys2Proof.Machine

/-! ### The register files -/

@[simp] theorem Regs.getF_setF (r : Regs) (i k : Fin 16) (v : W256) :
    (r.setF i v).getF k = if i = k then v else r.getF k := by
  simp [Regs.getF, Regs.setF, Vector.getElem_set, Fin.ext_iff]

@[simp] theorem Regs.getP_setP (r : Regs) (i k : Fin 8) (A : Point) :
    (r.setP i A).getP k = if i = k then A else r.getP k := by
  simp [Regs.getP, Regs.setP, Vector.getElem_set, Fin.ext_iff]

@[simp] theorem Regs.getJ_setJ (r : Regs) (i k : Fin 4) (T : Jac) :
    (r.setJ i T).getJ k = if i = k then T else r.getJ k := by
  simp [Regs.getJ, Regs.setJ, Vector.getElem_set, Fin.ext_iff]

@[simp] theorem Regs.getF_setP (r : Regs) (i : Fin 8) (A : Point) (k : Fin 16) : (r.setP i A).getF k = r.getF k := rfl
@[simp] theorem Regs.getF_setJ (r : Regs) (i : Fin 4) (T : Jac) (k : Fin 16) : (r.setJ i T).getF k = r.getF k := rfl
@[simp] theorem Regs.getF_setCbuf (r : Regs) (c : Vector Byte 33) (k : Fin 16) : (r.setCbuf c).getF k = r.getF k := rfl
@[simp] theorem Regs.getF_setBool (r : Regs) (b : Bool) (k : Fin 16) : (r.setBool b).getF k = r.getF k := rfl
@[simp] theorem Regs.getP_setF (r : Regs) (i : Fin 16) (v : W256) (k : Fin 8) : (r.setF i v).getP k = r.getP k := rfl
@[simp] theorem Regs.getP_setJ (r : Regs) (i : Fin 4) (T : Jac) (k : Fin 8) : (r.setJ i T).getP k = r.getP k := rfl
@[simp] theorem Regs.getP_setCbuf (r : Regs) (c : Vector Byte 33) (k : Fin 8) : (r.setCbuf c).getP k = r.getP k := rfl
@[simp] theorem Regs.getP_setBool (r : Regs) (b : Bool) (k : Fin 8) : (r.setBool b).getP k = r.getP k := rfl
@[simp] theorem Regs.getJ_setF (r : Regs) (i : Fin 16) (v : W256) (k : Fin 4) : (r.setF i v).getJ k = r.getJ k := rfl
@[simp] theorem Regs.getJ_setP (r : Regs) (i : Fin 8) (A : Point) (k : Fin 4) : (r.setP i A).getJ k = r.getJ k := rfl
@[simp] theorem Regs.getJ_setCbuf (r : Regs) (c : Vector Byte 33) (k : Fin 4) : (r.setCbuf c).getJ k = r.getJ k := rfl
@[simp] theorem Regs.getJ_setBool (r : Regs) (b : Bool) (k : Fin 4) : (r.setBool b).getJ k = r.getJ k := rfl

@[simp] theorem State.getF_issue (s : State) (v : W32) (k : Fin 16) : (s.issue v).toRegs.getF k = s.toRegs.getF k := rfl
@[simp] theorem State.getP_issue (s : State) (v : W32) (k : Fin 8) : (s.issue v).toRegs.getP k = s.toRegs.getP k := rfl
@[simp] theorem State.getJ_issue (s : State) (v : W32) (k : Fin 4) : (s.issue v).toRegs.getJ k = s.toRegs.getJ k := rfl
@[simp] theorem State.getF_raiseErr (s : State) (e : Err) (k : Fin 16) :
    (s.raiseErr e).toRegs.getF k = s.toRegs.getF k := rfl
@[simp] theorem State.getP_raiseErr (s : State) (e : Err) (k : Fin 8) :
    (s.raiseErr e).toRegs.getP k = s.toRegs.getP k := rfl
@[simp] theorem State.getJ_raiseErr (s : State) (e : Err) (k : Fin 4) :
    (s.raiseErr e).toRegs.getJ k = s.toRegs.getJ k := rfl
@[simp] theorem State.getF_succeed (s : State) (r : Regs) (k : Fin 16) : (s.succeed r).toRegs.getF k = r.getF k := rfl
@[simp] theorem State.getP_succeed (s : State) (r : Regs) (k : Fin 8) : (s.succeed r).toRegs.getP k = r.getP k := rfl
@[simp] theorem State.getJ_succeed (s : State) (r : Regs) (k : Fin 4) : (s.succeed r).toRegs.getJ k = r.getJ k := rfl

@[simp] theorem Regs.getF_reset (k : Fin 16) : Regs.reset.getF k = 0#256 := by simp [Regs.getF, Regs.reset]
@[simp] theorem Regs.getP_reset (k : Fin 8) : Regs.reset.getP k = .inf := by simp [Regs.getP, Regs.reset]
@[simp] theorem Regs.getJ_reset (k : Fin 4) : Regs.reset.getJ k = .inf := by simp [Regs.getJ, Regs.reset]

/-! ### Completion -/

@[simp] theorem complete_ok (s : State) (r : Regs) : complete s (.ok r) = .next (s.succeed r) := rfl
@[simp] theorem complete_error (s : State) (e : Err) : complete s (.error e) = .next (s.raiseErr e) := rfl

/-- Everything a completion can do (R71, R202). -/
theorem complete_cases (s : State) (out : Result) :
    (∃ r, out = .ok r ∧ complete s out = .next (s.succeed r)) ∨
      (∃ e, out = .error e ∧ complete s out = .next (s.raiseErr e)) := by
  cases out with
  | ok r => exact .inl ⟨r, rfl, rfl⟩
  | error e => exact .inr ⟨e, rfl, rfl⟩

/-! ### Operands -/

/-- Everything a field operand fetch can do (R110). -/
theorem Regs.fop_cases (r : Regs) (i : FReg) :
    (canonical (r.getF i) = true ∧ r.fop i = .ok (r.getF i)) ∨
      (canonical (r.getF i) = false ∧ r.fop i = .error .notCanonical) := by
  unfold Regs.fop
  cases h : canonical (r.getF i) <;> simp

theorem Regs.fop_ok {r : Regs} {i : FReg} (h : canonical (r.getF i) = true) : r.fop i = .ok (r.getF i) := by
  simp [Regs.fop, h]

theorem Regs.fop_error {r : Regs} {i : FReg} (h : canonical (r.getF i) = false) : r.fop i = .error .notCanonical := by
  simp [Regs.fop, h]

/-! ### exec and step -/

/-- `Exec(state, CMD)` of R71 for a decoded command: what the completion applies or raises. -/
def result (i : Instr) (r : Regs) : Result :=
  match i with
  | .nop => runNop r
  | .fadd rd rs1 rs2 => runFadd rd rs1 rs2 r
  | .fsub rd rs1 rs2 => runFsub rd rs1 rs2 r
  | .fmul rd rs1 rs2 => runFmul rd rs1 rs2 r
  | .mmul rd rs1 rs2 => runMmul rd rs1 rs2 r
  | .finv rd rs1 => runFinv rd rs1 r
  | .fsqrt rd rs1 => runFsqrt rd rs1 r
  | .fldc rd imm => runFldc rd imm r
  | .pldg rd => runPldg rd r
  | .pmk rd rs1 rs2 => runPmk rd rs1 rs2 r
  | .pneg rd rs1 => runPneg rd rs1 r
  | .padd rd rs1 rs2 => runPadd rd rs1 rs2 r
  | .pdbl rd rs1 => runPdbl rd rs1 r
  | .pchk rs1 => runPchk rs1 r
  | .pchkxy rs1 rs2 => runPchkxy rs1 rs2 r
  | .peq rs1 rs2 => runPeq rs1 rs2 r
  | .jld rd rs1 => runJld rd rs1 r
  | .jadd rd rs1 rs2 => runJadd rd rs1 rs2 r
  | .jdbl rd rs1 => runJdbl rd rs1 r
  | .jtoa rd rs1 => runJtoa rd rs1 r
  | .pmul rd rs1 => runPmul rd rs1 r
  | .penc rs1 => runPenc rs1 r
  | .pdec rd => runPdec rd r

/-- Every command is a completion of its result (R71). -/
theorem exec_eq_complete (i : Instr) (s : State) : exec i s = complete s (result i s.toRegs) := by
  cases i <;> rfl

/-- Everything a command can do (R71, R202): it succeeds with its result applied, or it ends with an error. -/
theorem exec_cases (i : Instr) (s : State) :
    (∃ r, result i s.toRegs = .ok r ∧ exec i s = .next (s.succeed r)) ∨
      (∃ e, result i s.toRegs = .error e ∧ exec i s = .next (s.raiseErr e)) := by
  rw [exec_eq_complete]
  exact complete_cases s _

/-- Everything the core's turn can do (R71, R96). -/
theorem coreTurn_cases (s : State) :
    (s.busy = false ∧ coreTurn s = .next s) ∨
      (s.busy = true ∧ ∃ i, decode s.cmd = some i ∧ coreTurn s = exec i s) ∨
      (s.busy = true ∧ decode s.cmd = none ∧ coreTurn s = .next (s.raiseErr .illegalCommand)) := by
  unfold coreTurn execWord
  cases hb : s.busy with
  | false => exact .inl ⟨rfl, by simp⟩
  | true =>
    cases hd : decode s.cmd with
    | some i => exact .inr (.inl ⟨rfl, i, rfl, by simp⟩)
    | none => exact .inr (.inr ⟨rfl, rfl, by simp [execIllegal]⟩)

end Sys2Proof.Machine
end

