-- ==== Sys2Proof/Laws/PerInstr.lean ====
section
/-! SUPPORT. Sys2Proof/Laws/PerInstr.lean: facts proved command by command. -/

namespace Sys2Proof.Laws.EncodedOpcode

/-- The opcode of each command (Table 30-2). -/
def opcode : Instr → BitVec 8
  | .nop => 0x00#8
  | .fadd _ _ _ => 0x10#8
  | .fsub _ _ _ => 0x11#8
  | .fmul _ _ _ => 0x12#8
  | .mmul _ _ _ => 0x13#8
  | .finv _ _ => 0x14#8
  | .fsqrt _ _ => 0x15#8
  | .fldc _ _ => 0x16#8
  | .pldg _ => 0x20#8
  | .pmk _ _ _ => 0x21#8
  | .pneg _ _ => 0x22#8
  | .padd _ _ _ => 0x23#8
  | .pdbl _ _ => 0x24#8
  | .pchk _ => 0x25#8
  | .pchkxy _ _ => 0x26#8
  | .peq _ _ => 0x27#8
  | .jld _ _ => 0x30#8
  | .jadd _ _ _ => 0x31#8
  | .jdbl _ _ => 0x32#8
  | .jtoa _ _ => 0x33#8
  | .pmul _ _ => 0x40#8
  | .penc _ => 0x50#8
  | .pdec _ => 0x51#8

/-- The word the encoder gives a command carries the command's opcode and no reserved bit (R93, R95). -/
def Statement (i : Instr) : Prop := opOf (encode i) = opcode i ∧ rsvOf (encode i) = 0#8

theorem nop : Statement .nop := by simp [Statement, encode, opcode]
theorem fadd (rd : FReg) (rs1 : FReg) (rs2 : FReg) : Statement (.fadd rd rs1 rs2) := by simp [Statement, encode, opcode]
theorem fsub (rd : FReg) (rs1 : FReg) (rs2 : FReg) : Statement (.fsub rd rs1 rs2) := by simp [Statement, encode, opcode]
theorem fmul (rd : FReg) (rs1 : FReg) (rs2 : FReg) : Statement (.fmul rd rs1 rs2) := by simp [Statement, encode, opcode]
theorem mmul (rd : FReg) (rs1 : FReg) (rs2 : FReg) : Statement (.mmul rd rs1 rs2) := by simp [Statement, encode, opcode]
theorem finv (rd : FReg) (rs1 : FReg) : Statement (.finv rd rs1) := by simp [Statement, encode, opcode]
theorem fsqrt (rd : FReg) (rs1 : FReg) : Statement (.fsqrt rd rs1) := by simp [Statement, encode, opcode]
theorem fldc (rd : FReg) (imm : Selector) : Statement (.fldc rd imm) := by simp [Statement, encode, opcode]
theorem pldg (rd : PReg) : Statement (.pldg rd) := by simp [Statement, encode, opcode]
theorem pmk (rd : PReg) (rs1 : FReg) (rs2 : FReg) : Statement (.pmk rd rs1 rs2) := by simp [Statement, encode, opcode]
theorem pneg (rd : PReg) (rs1 : PReg) : Statement (.pneg rd rs1) := by simp [Statement, encode, opcode]
theorem padd (rd : PReg) (rs1 : PReg) (rs2 : PReg) : Statement (.padd rd rs1 rs2) := by simp [Statement, encode, opcode]
theorem pdbl (rd : PReg) (rs1 : PReg) : Statement (.pdbl rd rs1) := by simp [Statement, encode, opcode]
theorem pchk (rs1 : PReg) : Statement (.pchk rs1) := by simp [Statement, encode, opcode]
theorem pchkxy (rs1 : FReg) (rs2 : FReg) : Statement (.pchkxy rs1 rs2) := by simp [Statement, encode, opcode]
theorem peq (rs1 : PReg) (rs2 : PReg) : Statement (.peq rs1 rs2) := by simp [Statement, encode, opcode]
theorem jld (rd : JReg) (rs1 : PReg) : Statement (.jld rd rs1) := by simp [Statement, encode, opcode]
theorem jadd (rd : JReg) (rs1 : JReg) (rs2 : PReg) : Statement (.jadd rd rs1 rs2) := by simp [Statement, encode, opcode]
theorem jdbl (rd : JReg) (rs1 : JReg) : Statement (.jdbl rd rs1) := by simp [Statement, encode, opcode]
theorem jtoa (rd : PReg) (rs1 : JReg) : Statement (.jtoa rd rs1) := by simp [Statement, encode, opcode]
theorem pmul (rd : PReg) (rs1 : PReg) : Statement (.pmul rd rs1) := by simp [Statement, encode, opcode]
theorem penc (rs1 : PReg) : Statement (.penc rs1) := by simp [Statement, encode, opcode]
theorem pdec (rd : PReg) : Statement (.pdec rd) := by simp [Statement, encode, opcode]

end Sys2Proof.Laws.EncodedOpcode
end

