-- ==== Sys2Proof/Laws/Prime.lean ====
section
/-! SUPPORT. Sys2Proof/Laws/Prime.lean: p is prime, by a chain of Lucas certificates; so Z/p is a field, and `invP` is its
inverse. -/

namespace Sys2Proof.Machine

/-- A power in Z/m from the machine's own modular exponentiation. -/
theorem cast_pow_of_powMod (m a bits e r : Nat) (he : e < 2 ^ bits) (h : powMod m a bits e = r) :
    (a : ZMod m) ^ e = (r : ZMod m) := by
  rw [powMod_eq m a bits e he] at h
  rw [← h, ZMod.natCast_mod, Nat.cast_pow]

/-- Lucas' test with the powers computed by `powMod`: m - 1 is the product of the primes of `fs`. -/
theorem prime_of_powMod (m a bits : Nat) (fs : List Nat) (hm : 2 < m) (hb : m ≤ 2 ^ bits)
    (hfs : ∀ q ∈ fs, Nat.Prime q) (hprod : fs.prod = m - 1) (hone : powMod m a bits (m - 1) = 1)
    (hne : ∀ q ∈ fs, powMod m a bits ((m - 1) / q) ≠ 1) : Nat.Prime m := by
  have hlt : ∀ q : Nat, (m - 1) / q < 2 ^ bits := fun q =>
    lt_of_le_of_lt (Nat.div_le_self _ _) (by omega)
  refine lucas_primality m (a : ZMod m) ?_ ?_
  · simpa using cast_pow_of_powMod m a bits (m - 1) 1 (by omega) hone
  · intro q hq hdvd hcontra
    have hmem : q ∈ fs := by
      rw [← hprod] at hdvd
      obtain ⟨r, hr, hqr⟩ := (Prime.dvd_prod_iff hq.prime).1 hdvd
      have : q = r := (Nat.prime_dvd_prime_iff_eq hq (hfs r hr)).1 hqr
      exact this ▸ hr
    refine hne q hmem ?_
    rw [← Nat.cast_pow, ← Nat.cast_one (R := ZMod m), ZMod.natCast_eq_natCast_iff'] at hcontra
    rw [powMod_eq m a bits _ (hlt q), hcontra]
    exact Nat.mod_eq_of_lt (by omega)

/-- The 39-digit factor of the certificate chain. -/
theorem prime_factor39 :
    Nat.Prime 255515944373312847190720520512484175977 := by
  refine prime_of_powMod _ 3 128
    [2, 2, 2, 7, 7, 11, 1627, 2657, 4423, 41201, 96557, 7240687, 107590001]
    (by decide) (by decide) ?_ (by decide +kernel) (by decide +kernel) (by decide +kernel)
  intro q hq
  simp only [List.mem_cons, List.not_mem_nil, or_false] at hq
  rcases hq with rfl | rfl | rfl | rfl | rfl | rfl | rfl | rfl | rfl | rfl | rfl | rfl | rfl <;> norm_num

/-- The 18-digit factor of the certificate chain. -/
theorem prime_factor18 :
    Nat.Prime 173378833005251801 := by
  refine prime_of_powMod _ 6 58
    [2, 2, 2, 5, 5, 2621, 24809, 13331831]
    (by decide) (by decide) ?_ (by decide +kernel) (by decide +kernel) (by decide +kernel)
  intro q hq
  simp only [List.mem_cons, List.not_mem_nil, or_false] at hq
  rcases hq with rfl | rfl | rfl | rfl | rfl | rfl | rfl | rfl <;> norm_num

/-- The 23-digit factor of the certificate chain. -/
theorem prime_factor23 :
    Nat.Prime 22149492674086928081353 := by
  refine prime_of_powMod _ 5 75
    [2, 2, 2, 3, 5323, 173378833005251801]
    (by decide) (by decide) ?_ (by decide +kernel) (by decide +kernel) (by decide +kernel)
  intro q hq
  simp only [List.mem_cons, List.not_mem_nil, or_false] at hq
  rcases hq with rfl | rfl | rfl | rfl | rfl | rfl <;> first | exact prime_factor18 | norm_num

/-- The 24-digit factor of the certificate chain. -/
theorem prime_factor24 :
    Nat.Prime 132896956044521568488119 := by
  refine prime_of_powMod _ 6 77
    [2, 3, 22149492674086928081353]
    (by decide) (by decide) ?_ (by decide +kernel) (by decide +kernel) (by decide +kernel)
  intro q hq
  simp only [List.mem_cons, List.not_mem_nil, or_false] at hq
  rcases hq with rfl | rfl | rfl <;> first | exact prime_factor23 | norm_num

/-- The 72-digit factor of the certificate chain. -/
theorem prime_factor72 :
    Nat.Prime 205115282021455665897114700593932402728804164701536103180137503955397371 := by
  refine prime_of_powMod _ 10 237
    [2, 3, 5, 29, 29, 31, 7723, 132896956044521568488119, 255515944373312847190720520512484175977]
    (by decide) (by decide) ?_ (by decide +kernel) (by decide +kernel) (by decide +kernel)
  intro q hq
  simp only [List.mem_cons, List.not_mem_nil, or_false] at hq
  rcases hq with rfl | rfl | rfl | rfl | rfl | rfl | rfl | rfl | rfl <;> first | exact prime_factor24 | exact prime_factor39 | norm_num

/-- The field prime of R2 is prime. -/
theorem p_prime : Nat.Prime Config.p := by
  refine prime_of_powMod _ 3 256
    [2, 3, 7, 13441, 205115282021455665897114700593932402728804164701536103180137503955397371]
    (by decide) (by decide) ?_ (by decide +kernel) (by decide +kernel) (by decide +kernel)
  intro q hq
  simp only [List.mem_cons, List.not_mem_nil, or_false] at hq
  rcases hq with rfl | rfl | rfl | rfl | rfl <;> first | exact prime_factor72 | norm_num

/-- What makes Z/p a field; a proof that needs it writes `have := p_fact`. -/
theorem p_fact : Fact (Nat.Prime Config.p) := ⟨p_prime⟩

/-- FINV's function is the inverse of the field Z/p (R7, R115). -/
theorem cast_invP {x : W256} (h0 : x ≠ 0#256) (h : x.toNat < Config.p) :
    ((invP x).toNat : ZMod Config.p) = (x.toNat : ZMod Config.p)⁻¹ := by
  have := p_fact
  have hx : (x.toNat : ZMod Config.p) ≠ 0 := fun e => h0 ((cast_eq_zero_iff h).1 e)
  rw [invP_eq_powP h0 h, cast_powP x _ (by decide)]
  refine eq_inv_of_mul_eq_one_left ?_
  rw [← pow_succ, show Config.p - 2 + 1 = Config.p - 1 by decide]
  exact ZMod.pow_card_sub_one_eq_one hx

/-- Euler's criterion, one way: a value whose (p-1)/2-th power is not 1 is no square modulo p. -/
theorem no_root_of_powMod (x : Nat) (hx : (x : ZMod Config.p) ≠ 0)
    (h : powMod Config.p x 256 ((Config.p - 1) / 2) ≠ 1) : ¬ ∃ y, y * y % Config.p = x % Config.p := by
  rintro ⟨y, hy⟩
  have := p_fact
  apply h
  have hyx : (y : ZMod Config.p) * y = x := by
    rw [← Nat.cast_mul]
    exact (ZMod.natCast_eq_natCast_iff' _ _ _).2 hy
  have hy0 : (y : ZMod Config.p) ≠ 0 := by
    rintro h0
    exact hx (by rw [← hyx, h0, mul_zero])
  have hpow : (x : ZMod Config.p) ^ ((Config.p - 1) / 2) = ((1 : Nat) : ZMod Config.p) := by
    rw [← hyx, ← pow_two, ← pow_mul, show 2 * ((Config.p - 1) / 2) = Config.p - 1 by decide, Nat.cast_one]
    exact ZMod.pow_card_sub_one_eq_one hy0
  rw [powMod_eq _ _ _ _ (by decide)]
  rw [← Nat.cast_pow, ZMod.natCast_eq_natCast_iff'] at hpow
  rw [hpow]
  decide

end Sys2Proof.Machine
end

