-- ==== Sys2Proof/Laws/Window.lean ====
section
/-! SUPPORT. Sys2Proof/Laws/Window.lean: words of wider registers, and everything one host access can do. -/

namespace Sys2Proof.Machine

/-- Bit k of word w of x is bit 32·w + k of x (R21). -/
theorem getLsbD_wordOf (x : W256) (w : Fin 8) (k : Nat) (hk : k < 32) :
    (wordOf x w).getLsbD k = x.getLsbD (32 * w.val + k) := by
  simp [wordOf, hk]

theorem getLsbD_wordMask (k : Nat) (hk : k < 256) : (0xFFFFFFFF#256).getLsbD k = decide (k < 32) := by
  have h : ∀ k : Fin 256, (0xFFFFFFFF#256).getLsbD k.val = decide (k.val < 32) := by decide +kernel
  exact h ⟨k, hk⟩

/-- Bit i of a value with word w replaced (R21). -/
theorem getLsbD_setWord (x : W256) (w : Fin 8) (v : W32) (i : Nat) (hi : i < 256) :
    (setWord x w v).getLsbD i =
      if 32 * w.val ≤ i ∧ i < 32 * w.val + 32 then v.getLsbD (i - 32 * w.val) else x.getLsbD i := by
  unfold setWord
  simp only [BitVec.getLsbD_or, BitVec.getLsbD_and, BitVec.getLsbD_not, BitVec.getLsbD_shiftLeft,
    BitVec.getLsbD_setWidth, getLsbD_wordMask _ (show i - 32 * w.val < 256 by omega), hi, decide_true, Bool.true_and,
    show i - 32 * w.val < 256 by omega]
  by_cases h1 : 32 * w.val ≤ i
  · have h1' : ¬ i < 32 * w.val := by omega
    by_cases h2 : i < 32 * w.val + 32
    · have h3 : i - 32 * w.val < 32 := by omega
      simp [h1, h1', h2, h3]
    · have h3 : ¬ i - 32 * w.val < 32 := by omega
      have h4 : v.getLsbD (i - 32 * w.val) = false := BitVec.getLsbD_of_ge _ _ (by omega)
      simp [h1, h1', h2, h3, h4]
  · have h1' : i < 32 * w.val := by omega
    simp [h1, h1']

/-- The word written is the word read (R21, R63). -/
@[simp] theorem wordOf_setWord (x : W256) (w : Fin 8) (v : W32) : wordOf (setWord x w v) w = v := by
  apply BitVec.eq_of_getLsbD_eq
  intro k hk
  have := w.isLt
  rw [getLsbD_wordOf _ _ _ hk, getLsbD_setWord _ _ _ _ (by omega), if_pos ⟨by omega, by omega⟩]
  congr 1
  omega

/-- The other words stay (R65). -/
theorem wordOf_setWord_ne (x : W256) {w w' : Fin 8} (h : w' ≠ w) (v : W32) : wordOf (setWord x w v) w' = wordOf x w' := by
  apply BitVec.eq_of_getLsbD_eq
  intro k hk
  have h1 := w.isLt
  have h2 := w'.isLt
  have h3 : w'.val ≠ w.val := fun e => h (Fin.ext e)
  rw [getLsbD_wordOf _ _ _ hk, getLsbD_wordOf _ _ _ hk, getLsbD_setWord _ _ _ _ (by omega), if_neg (by omega)]

/-- Two 256-bit values with equal words are equal (R21). -/
theorem eq_of_words {x y : W256} (h : ∀ w, wordOf x w = wordOf y w) : x = y := by
  apply BitVec.eq_of_getLsbD_eq
  intro i hi
  have := congrArg (fun z => z.getLsbD (i % 32)) (h ⟨i / 32, by omega⟩)
  simp only [getLsbD_wordOf _ _ _ (show i % 32 < 32 by omega)] at this
  rwa [show 32 * (i / 32) + i % 32 = i by omega] at this

/-! ### Host accesses -/

/-- Everything one host access can do (R62-R64, R75). -/
theorem State.access_cases (s : State) (a : Access) :
    (a.admitted = false ∧ s.access a = { s with bus := some a.refusal }) ∨
      (a.admitted = true ∧ a.we = true ∧
        s.access a = { s.writeLoc (locate a.addr) a.wdata with bus := some (.write false) }) ∨
      (a.admitted = true ∧ a.we = false ∧ s.busy = true ∧ (locate a.addr).isData = true ∧
        s.access a = { s with bus := some (.read (Config.busyRead s.draws) false), draws := s.draws + 1 }) ∨
      (a.admitted = true ∧ a.we = false ∧ (s.busy = false ∨ (locate a.addr).isData = false) ∧
        s.access a = { s with bus := some (.read (s.toRegs.readLoc (locate a.addr)) false) }) := by
  unfold State.access State.writeAt State.readAt
  cases a.admitted <;> cases a.we <;> cases hb : s.busy <;> cases (locate a.addr).isData <;> simp

/-- An interlocked write while BUSY = 0 is performed (R74). -/
@[simp] theorem State.interlocked_idle {s : State} (h : s.busy = false) (t : State) : s.interlocked t = t := by
  simp [State.interlocked, h]

/-- An interlocked write while BUSY = 1 is dropped and sets OVR (R74). -/
@[simp] theorem State.interlocked_busy {s : State} (h : s.busy = true) (t : State) :
    s.interlocked t = { s with ovr := true } := by
  simp [State.interlocked, h]

/-- Everything a write can do to a block that is busy (R74, R231): reset it, or touch IRQEN, DONE and OVR only. -/
theorem State.writeLoc_busy {s : State} (h : s.busy = true) (l : Loc) (v : W32) :
    (l = .ctrl ∧ v[1] = true ∧ s.writeLoc l v = s.resetRegs) ∨
      (∃ i d o, s.writeLoc l v = { s with irqen := i, done := d, ovr := o }) := by
  cases l with
  | ctrl =>
    cases hv : v[1] with
    | true => exact .inl ⟨rfl, rfl, by simp [State.writeLoc, State.writeCtrl, hv]⟩
    | false => exact .inr ⟨v[0], s.done, s.ovr, by simp [State.writeLoc, State.writeCtrl, hv]⟩
  | status =>
    refine .inr ⟨s.irqen, if v[1] then false else s.done, if v[4] then false else s.ovr, ?_⟩
    simp only [State.writeLoc, State.writeStatus, State.clearDone]
    split <;> split <;> rfl
  | cmd => exact .inr ⟨s.irqen, s.done, true, by simp [State.writeLoc, h]⟩
  | ksign => exact .inr ⟨s.irqen, s.done, true, by simp [State.writeLoc, h]⟩
  | kmag w => exact .inr ⟨s.irqen, s.done, true, by simp [State.writeLoc, h]⟩
  | f i w => exact .inr ⟨s.irqen, s.done, true, by simp [State.writeLoc, h]⟩
  | cbuf k => exact .inr ⟨s.irqen, s.done, true, by simp [State.writeLoc, h]⟩
  | _ => exact .inr ⟨s.irqen, s.done, s.ovr, rfl⟩

/-! ### Offsets -/

/-- An aligned word access is admitted (R62). -/
theorem lowBits_of_aligned {o : Offset} (h : o.toNat % 4 = 0) : o.extractLsb' 0 2 = 0#2 := by
  apply BitVec.eq_of_toNat_eq
  simp [BitVec.extractLsb'_toNat]
  omega

/-- A 32-bit read at an aligned offset is performed (R62, R63). -/
theorem State.access_hostRead (s : State) {o : Offset} (h : o.toNat % 4 = 0) :
    s.access (hostRead o) = s.readAt (locate o) := by
  simp [State.access, hostRead, Access.admitted, lowBits_of_aligned h]

/-- A 32-bit write at an aligned offset is performed (R62, R64). -/
theorem State.access_hostWrite (s : State) {o : Offset} (v : W32) (h : o.toNat % 4 = 0) :
    s.access (hostWrite o v) = s.writeAt (locate o) v := by
  simp [State.access, hostWrite, Access.admitted, lowBits_of_aligned h]

/-- A fact about every aligned offset of the window, from the kernel's check of it in blocks of 64 bytes. -/
theorem aligned_offsets (Q : Nat → Bool) (h : ∀ a : Fin 64, ∀ b : Fin 16, Q (64 * a.val + 4 * b.val) = true) (n : Nat)
    (hn : n < 4096) (h4 : n % 4 = 0) : Q n = true := by
  have := h ⟨n / 64, by omega⟩ ⟨n % 64 / 4, by omega⟩
  simp only at this
  rwa [show 64 * (n / 64) + 4 * (n % 64 / 4) = n by omega] at this

/-- The offset of word w of F[i] (Table 10-1). -/
theorem locate_f (i : Fin 16) (w : Fin 8) :
    (BitVec.ofNat 12 (0x100 + 0x20 * i.val + 4 * w.val)).toNat % 4 = 0 ∧
      locate (BitVec.ofNat 12 (0x100 + 0x20 * i.val + 4 * w.val)) = .f i w := by
  revert i w
  decide +kernel

/-- The offset of word w of KMAG (Table 10-1). -/
theorem locate_kmag (w : Fin 8) :
    (BitVec.ofNat 12 (0x020 + 4 * w.val)).toNat % 4 = 0 ∧ locate (BitVec.ofNat 12 (0x020 + 4 * w.val)) = .kmag w := by
  revert w
  decide +kernel

/-- The offset of host word k of CBUF (Table 10-1). -/
theorem locate_cbuf (k : Fin 9) :
    (BitVec.ofNat 12 (0x900 + 4 * k.val)).toNat % 4 = 0 ∧ locate (BitVec.ofNat 12 (0x900 + 4 * k.val)) = .cbuf k := by
  revert k
  decide +kernel

/-- The offsets of P[i] (Table 10-1). -/
theorem locate_p (i : Fin 8) (w : Fin 8) :
    locate (BitVec.ofNat 12 (0x300 + 0x80 * i.val + 4 * w.val)) = .px i w ∧
      locate (BitVec.ofNat 12 (0x320 + 0x80 * i.val + 4 * w.val)) = .py i w ∧
      locate (BitVec.ofNat 12 (0x340 + 0x80 * i.val)) = .ptag i := by
  revert i w
  decide +kernel

/-- The offsets of J[i] (Table 10-1). -/
theorem locate_j (i : Fin 4) (w : Fin 8) :
    locate (BitVec.ofNat 12 (0x700 + 0x80 * i.val + 4 * w.val)) = .jx i w ∧
      locate (BitVec.ofNat 12 (0x720 + 0x80 * i.val + 4 * w.val)) = .jy i w ∧
      locate (BitVec.ofNat 12 (0x740 + 0x80 * i.val + 4 * w.val)) = .jz i w := by
  revert i w
  decide +kernel

/-- The register words that no write changes (R64). -/
def Loc.inert : Loc → Bool
  | .id | .px _ _ | .py _ _ | .ptag _ | .jx _ _ | .jy _ _ | .jz _ _ => true
  | .constP _ | .constGx _ | .constGy _ | .constB _ | .reserved => true
  | .ctrl | .status | .cmd | .ksign | .kmag _ | .f _ _ | .cbuf _ => false

/-- A write to a read-only or reserved offset is ignored (R64). -/
theorem State.writeLoc_inert {l : Loc} (h : l.inert = true) (s : State) (v : W32) : s.writeLoc l v = s := by
  cases l <;> first | rfl | simp [Loc.inert] at h

/-- Word w of a value, as a number (R21). -/
theorem wordOf_eq_ofNat (x : W256) (w : Fin 8) : wordOf x w = BitVec.ofNat 32 (x.toNat / 2 ^ (32 * w.val)) := by
  apply BitVec.eq_of_toNat_eq
  simp [wordOf, BitVec.extractLsb'_toNat, Nat.shiftRight_eq_div_pow]

/-- Word w of a value, as a number below 2^32 (R21). -/
theorem wordOf_toNat (x : W256) (w : Fin 8) : (wordOf x w).toNat = x.toNat / 2 ^ (32 * w.val) % 2 ^ 32 := by
  simp [wordOf_eq_ofNat]

end Sys2Proof.Machine
end

