-- ==== Sys2Proof/Tests/Slice0.lean ====
section
/-! SUPPORT. Sys2Proof/Tests/Slice0.lean: smoke tests of WellFormed, decode tests on words written out from the spec's
encodings, vectors of spec/95_test_vectors.md, and a witness for the hypotheses of each statement. -/

namespace Sys2Proof.Tests

open Sys2Proof.Machine

set_option Elab.async false

/-! ### WellFormed -/

/-- R92: selectors 0 and 6 are the ends of the legal range. -/
theorem test_selectors_accepted : (Instr.fldc 15 0).wellFormed = true ∧ (Instr.fldc 0 6).wellFormed = true := by decide

/-- R92: selectors 7 and 15 are the ends of the reserved range. -/
theorem test_selectors_refused : (Instr.fldc 15 7).wellFormed = false ∧ (Instr.fldc 0 15).wellFormed = false := by decide

/-- R91: the types carry the other checks; the decoder refuses the words of P8 and J4, and names the reason. -/
theorem test_indices_refused :
    decodeWord 0x00000823#32 = .error .pointIndexOutOfRange ∧ decodeWord 0x00000431#32 = .error .jacobianIndexOutOfRange := by
  decide

/-! ### Decoding: words written out from R90 (rsv, imm, rs2, rs1, rd, op) and Table 30-2 -/

theorem test_decode_nop : decode 0b00000000_0000_0000_0000_0000_00000000#32 = some .nop := by decide
theorem test_decode_fadd : decode 0b00000000_0000_0011_0010_0001_00010000#32 = some (.fadd 1 2 3) := by decide
theorem test_decode_fsub : decode 0b00000000_0000_1111_0010_0001_00010001#32 = some (.fsub 1 2 15) := by decide
theorem test_decode_fmul : decode 0b00000000_0000_0011_1111_0001_00010010#32 = some (.fmul 1 15 3) := by decide
theorem test_decode_mmul : decode 0b00000000_0000_0011_0010_1111_00010011#32 = some (.mmul 15 2 3) := by decide
theorem test_decode_finv : decode 0b00000000_0000_0000_0010_0001_00010100#32 = some (.finv 1 2) := by decide
theorem test_decode_fsqrt : decode 0b00000000_0000_0000_0010_0001_00010101#32 = some (.fsqrt 1 2) := by decide
theorem test_decode_fldc : decode 0b00000000_0110_0000_0000_1001_00010110#32 = some (.fldc 9 6) := by decide
theorem test_decode_pldg : decode 0b00000000_0000_0000_0000_0111_00100000#32 = some (.pldg 7) := by decide
theorem test_decode_pmk : decode 0b00000000_0000_1011_1010_0001_00100001#32 = some (.pmk 1 10 11) := by decide
theorem test_decode_pneg : decode 0b00000000_0000_0000_0010_0001_00100010#32 = some (.pneg 1 2) := by decide
theorem test_decode_padd : decode 0b00000000_0000_0011_0010_0001_00100011#32 = some (.padd 1 2 3) := by decide
theorem test_decode_pdbl : decode 0b00000000_0000_0000_0010_0001_00100100#32 = some (.pdbl 1 2) := by decide
theorem test_decode_pchk : decode 0b00000000_0000_0000_0010_0000_00100101#32 = some (.pchk 2) := by decide
theorem test_decode_pchkxy : decode 0b00000000_0000_1011_1010_0000_00100110#32 = some (.pchkxy 10 11) := by decide
theorem test_decode_peq : decode 0b00000000_0000_0011_0010_0000_00100111#32 = some (.peq 2 3) := by decide
theorem test_decode_jld : decode 0b00000000_0000_0000_0111_0011_00110000#32 = some (.jld 3 7) := by decide
theorem test_decode_jadd : decode 0b00000000_0000_0111_0010_0001_00110001#32 = some (.jadd 1 2 7) := by decide
theorem test_decode_jdbl : decode 0b00000000_0000_0000_0010_0001_00110010#32 = some (.jdbl 1 2) := by decide
theorem test_decode_jtoa : decode 0b00000000_0000_0000_0010_0111_00110011#32 = some (.jtoa 7 2) := by decide
theorem test_decode_pmul : decode 0b00000000_0000_0000_0010_0001_01000000#32 = some (.pmul 1 2) := by decide
theorem test_decode_penc : decode 0b00000000_0000_0000_0010_0000_01010000#32 = some (.penc 2) := by decide
theorem test_decode_pdec : decode 0b00000000_0000_0000_0000_0001_01010001#32 = some (.pdec 1) := by decide

/-- The illegal words of spec/95 V-X2 to V-X11 and V-F40. -/
theorem test_decode_illegal :
    [0x00000001#32, 0x000000FF#32, 0x01000000#32, 0x00000100#32, 0x00000823#32, 0x00000431#32, 0x00100010#32,
      0x00001150#32, 0x00010025#32, 0x00000052#32, 0x00700516#32].map decode = List.replicate 11 none := by
  decide

/-! ### Small states -/

/-- p - 1. -/
def pm1 : W256 := 0xFFFFFFFFFFFFFFFFFFFFFFFFFFFFFFFFFFFFFFFFFFFFFFFFFFFFFFFEFFFFFC2E#256
/-- p. -/
def pVal : W256 := 0xFFFFFFFFFFFFFFFFFFFFFFFFFFFFFFFFFFFFFFFFFFFFFFFFFFFFFFFEFFFFFC2F#256
/-- Gx. -/
def gX : W256 := 0x79BE667EF9DCBBAC55A06295CE870B07029BFCDB2DCE28D959F2815B16F81798#256
/-- Gy. -/
def gY : W256 := 0x483ADA7726A3C4655DA4FBFC0E1108A8FD17B448A68554199C47D08FFB10D4B8#256
/-- G, -G, 2G and 3G as spec/95 lists them. -/
def g1 : Point := .aff gX gY
def gNeg : Point := .aff gX 0xB7C52588D95C3B9AA25B0403F1EEF75702E84BB7597AABE663B82F6F04EF2777#256
def g2 : Point :=
  .aff 0xC6047F9441ED7D6D3045406E95C07CD85C778E4B8CEF3CA7ABAC09B95C709EE5#256
    0x1AE168FEA63DC339A3C58419466CEAEEF7F632653266D0E1236431A950CFE52A#256
def g3 : Point :=
  .aff 0xF9308A019258C31049344F85F89D5229B531C845836F99B08601F113BCE036F9#256
    0x388F7B0F632DE8140FE337E62A37F3566500A99934C2231B6CB9FD7584B8E672#256
/-- The triple for 2G of spec/95 V-J4. -/
def j2 : Jac :=
  ⟨0x7D152C041EA8E1DC2191843D1FA9DB55B68F88FEF695E2C791D40444B365AFC2#256,
    0x56915849F52CC8F76F5FD7E4BF60DB4A43BF633E1B1383F85FE89164BFADCBDB#256,
    0x9075B4EE4D4788CABB49F7F81C221151FA2F68914D0AA833388FA11FF621A970#256⟩
/-- The triple for 3G of spec/95 V-J9. -/
def j3 : Jac :=
  ⟨0x0CA90EF9B06D7EB51D650E9145E3083CBD8DF8759168862036F97A358F089848#256,
    0xBCA50189FE8472AA2FB007567229F4D458149078094D7E7D35BB6C27E9A22B08#256,
    0x6DBD0563F460DC5C401595F1492430343B7AC0165DA116B7EFA23994D564A085#256⟩

/-- ResetState with F0 and F1. -/
def stF (a b : W256) : State := { State.reset with f := (State.reset.f.set 0 a).set 1 b }
/-- ResetState with P0 and P1. -/
def stP (A B : Point) : State := { State.reset with p := (State.reset.p.set 0 A).set 1 B }
/-- ResetState with J0 and P0. -/
def stJ (T : Jac) (A : Point) : State := { State.reset with j := State.reset.j.set 0 T, p := State.reset.p.set 0 A }
/-- ResetState with K and P0. -/
def stK (sign : Bool) (mag : W256) (A : Point) : State :=
  { State.reset with ksign := sign, kmag := mag, p := State.reset.p.set 0 A }
/-- ResetState with CBUF = lead, then x. -/
def stC (lead : Byte) (x : W256) : State :=
  { State.reset with cbuf := Vector.ofFn fun b : Fin 33 => if b.val = 0 then lead else x.extractLsb' (8 * (32 - b.val)) 8 }
/-- A block that is busy with PMUL p1, p0 (K = 5). -/
def stBusy : State := { stK false 5 g1 with cmd := 0x00000140#32, busy := true }

/-- The registers a command leaves. -/
def after (i : Instr) (s : State) : Regs :=
  match exec i s with
  | .next t => t.toRegs
  | .fault _ => s.toRegs
  | .refused _ => s.toRegs

/-! ### Vectors of spec/95 section 2.1 -/

/-- V-F1, V-F6. -/
theorem test_fadd_wraps : (after (.fadd 2 0 1) (stF pm1 1)).getF 2 = 0#256 := by decide +kernel
theorem test_fadd_not_canonical :
    after (.fadd 2 0 1) (stF 1 (BitVec.allOnes 256)) =
      { (stF 1 (BitVec.allOnes 256)).toRegs with errcode := 6#4, done := true } := by
  decide +kernel
/-- V-F7, V-F10. -/
theorem test_fsub_borrows : (after (.fsub 2 0 1) (stF 0 1)).getF 2 = pm1 := by decide +kernel
theorem test_fsub_not_canonical : (after (.fsub 2 0 1) (stF 5 pVal)).errcode = 6#4 := by decide +kernel
/-- V-F11, V-F15. -/
theorem test_fmul_minus_one_squared : (after (.fmul 1 0 0) (stF pm1 0)).getF 1 = 1#256 := by decide +kernel
theorem test_fmul_gx_gy :
    (after (.fmul 2 0 1) (stF gX gY)).getF 2 = 0xFD3DC529C6EB60FB9D166034CF3C1A5A72324AA9DFD3428A56D7E1CE0179FD9B#256 := by
  decide +kernel
/-- V-F16, V-F20. -/
theorem test_mmul_to_montgomery : (after (.mmul 2 0 1) (stF 0x1000007A2000E90A1 1)).getF 2 = 0x1000003D1#256 := by decide +kernel
theorem test_mmul_gx_one :
    (after (.mmul 2 0 1) (stF gX 1)).getF 2 = 0x61CB92C63FD33FE564A5E137388FDED6F17598B780D028889363779E798B67DD#256 := by
  decide +kernel
/-- V-F22, V-F25. -/
theorem test_finv_three :
    (after (.finv 1 0) (stF 3 0)).getF 1 = 0xAAAAAAAAAAAAAAAAAAAAAAAAAAAAAAAAAAAAAAAAAAAAAAAAAAAAAAA9FFFFFD75#256 := by
  decide +kernel
theorem test_finv_not_canonical_first : (after (.finv 1 0) (stF pVal 0)).errcode = 6#4 := by decide +kernel
/-- V-F27, V-F29. -/
theorem test_fsqrt_nine :
    (after (.fsqrt 1 0) (stF 9 0)).getF 1 = pm1 - 2#256 ∧ (after (.fsqrt 1 0) (stF 9 0)).bool = true := by
  decide +kernel
theorem test_fsqrt_no_root :
    after (.fsqrt 1 0) (stF pm1 5) = { (stF pm1 5).toRegs with bool := false, errcode := 0#4, done := true } := by
  decide +kernel
/-- V-F37, V-F39. -/
theorem test_fldc_gy : (after (.fldc 5 4) State.reset).getF 5 = gY := by decide +kernel
theorem test_fldc_r2modp : (after (.fldc 5 6) State.reset).getF 5 = 0x1000007A2000E90A1#256 := by decide +kernel

/-! ### Vectors of spec/95 section 2.2 -/

/-- V-P1. -/
theorem test_pldg : (after (.pldg 0) State.reset).getP 0 = g1 := by decide +kernel
/-- V-P3, V-P5. -/
theorem test_pmk_minus_g :
    (after (.pmk 1 0 1) (stF gX 0xB7C52588D95C3B9AA25B0403F1EEF75702E84BB7597AABE663B82F6F04EF2777)).getP 1 = gNeg := by
  decide +kernel
theorem test_pmk_off_curve :
    (after (.pmk 1 0 1) (stF gX (gY + 1#256))).errcode = 1#4 ∧ (after (.pmk 1 0 1) (stF gX (gY + 1#256))).getP 1 = .inf := by
  decide +kernel
/-- V-P7, V-P8. -/
theorem test_pneg_g : (after (.pneg 1 0) (stP g1 .inf)).getP 1 = gNeg := by decide +kernel
theorem test_pneg_inf : (after (.pneg 1 0) (stP .inf g1)).getP 1 = .inf := by decide +kernel
/-- V-P11, V-P15. -/
theorem test_padd_inverse : (after (.padd 2 0 1) (stP g1 gNeg)).getP 2 = .inf := by decide +kernel
theorem test_padd_general : (after (.padd 2 0 1) (stP g1 g2)).getP 2 = g3 := by decide +kernel
/-- V-P18, V-P19. -/
theorem test_pdbl_g : (after (.pdbl 1 0) (stP g1 .inf)).getP 1 = g2 := by decide +kernel
theorem test_pdbl_in_place :
    (after (.pdbl 0 0) (stP g2 .inf)).getP 0 =
      .aff 0xE493DBF1C10D80F3581E4904930B1404CC6C13900EE0758474FA94ABE8C4CD13#256
        0x51ED993EA0D455B75642E2098EA51448D967AE33BFBDFE40CFE97BDC47739922#256 := by
  decide +kernel
/-- V-P21, V-P22. -/
theorem test_pchk_inf : (after (.pchk 1) State.reset).bool = true := by decide +kernel
theorem test_pchk_2g : (after (.pchk 1) (stP .inf g2)).bool = true := by decide +kernel
/-- V-P25, V-X15. -/
theorem test_pchkxy_off_curve : (after (.pchkxy 0 1) (stF gX (gY + 1#256))).bool = false := by decide +kernel
theorem test_pchkxy_error_keeps_bool :
    after (.pchkxy 0 1) { stF 1 pVal with bool := true } =
      { (stF 1 pVal).toRegs with bool := true, errcode := 6#4, done := true } := by
  decide +kernel
/-- V-P27, V-P29. -/
theorem test_peq_opposite : (after (.peq 0 1) (stP g1 gNeg)).bool = false := by decide +kernel
theorem test_peq_inf : (after (.peq 0 1) (stP .inf .inf)).bool = true := by decide +kernel

/-! ### Vectors of spec/95 sections 2.3 to 2.5 -/

/-- V-J1, V-J2. -/
theorem test_jld_inf : (after (.jld 0 0) (stJ ⟨gX, gY, 1⟩ .inf)).getJ 0 = ⟨0, 0, 0⟩ := by decide +kernel
theorem test_jld_g : (after (.jld 0 0) (stJ ⟨0, 0, 0⟩ g1)).getJ 0 = ⟨gX, gY, 1⟩ := by decide +kernel
/-- V-J9, V-J8. -/
theorem test_jadd_general : (after (.jadd 1 0 0) (stJ j2 g1)).getJ 1 = j3 := by decide +kernel
theorem test_jadd_inverse : (after (.jadd 1 0 0) (stJ ⟨gX, gY, 1⟩ gNeg)).getJ 1 = ⟨0, 0, 0⟩ := by decide +kernel
/-- V-J4, V-J7. -/
theorem test_jdbl_g : (after (.jdbl 0 0) (stJ ⟨gX, gY, 1⟩ .inf)).getJ 0 = j2 := by decide +kernel
theorem test_jadd_same_point : (after (.jadd 1 0 0) (stJ ⟨gX, gY, 1⟩ g1)).getJ 1 = j2 := by decide +kernel
/-- V-J13, V-J12. -/
theorem test_jtoa_3g : (after (.jtoa 1 0) (stJ j3 .inf)).getP 1 = g3 := by decide +kernel
theorem test_jtoa_inf : (after (.jtoa 0 1) (stJ j3 g1)).getP 0 = .inf := by decide +kernel
/-- V-S6, V-S8. -/
theorem test_pmul_3 : (after (.pmul 1 0) (stK false 3 g1)).getP 1 = g3 := by decide +kernel
theorem test_pmul_minus_2 :
    (after (.pmul 1 0) (stK true 2 g1)).getP 1 =
      .aff 0xC6047F9441ED7D6D3045406E95C07CD85C778E4B8CEF3CA7ABAC09B95C709EE5#256
        (pVal - 0x1AE168FEA63DC339A3C58419466CEAEEF7F632653266D0E1236431A950CFE52A#256) := by
  decide +kernel
/-- V-C4, V-C5. -/
theorem test_penc_minus_g : (after (.penc 1) (stP .inf gNeg)).cbuf = (stC 0x03 gX).cbuf := by decide +kernel
theorem test_penc_inf :
    after (.penc 1) State.reset = { State.reset.toRegs with errcode := 5#4, done := true } := by decide +kernel
/-- V-C15, V-C13. -/
theorem test_pdec_odd_root :
    (after (.pdec 2) (stC 0x03 1)).getP 2 = .aff 1#256 0xBDE70DF51939B94C9C24979FA7DD04EBD9B3572DA7802290438AF2A681895441#256 := by
  decide +kernel
theorem test_pdec_prefix_first : (after (.pdec 2) (stC 0x04 (BitVec.allOnes 256))).errcode = 4#4 := by decide +kernel
/-- V-X1. -/
theorem test_nop_status : (after .nop State.reset).statusWord = 0x00000002#32 := by decide +kernel

/-! ### The step and the host interface (spec/95 section 2.7) -/

/-- The outcome of the last access, and the registers, after a step. -/
def stepped (s : State) : Option State :=
  match step s with
  | .next t => some t
  | .fault _ => none
  | .refused _ => none

/-- PLDG p0 as the first command after reset. -/
theorem test_step_first_command :
    (stepped (State.reset.withFetchWord 32 0x00000020)).map (fun t => (t.toRegs.getP 0, t.busy, t.done)) =
      some (g1, false, true) := by
  decide +kernel

/-- V-X3 through a step: an illegal word. -/
theorem test_step_illegal_word :
    (stepped (State.reset.withFetchWord 32 0x000000FF)).map (fun t => (t.toRegs.statusWord, t.cmd)) =
      some (0x00000706#32, 0x000000FF#32) := by
  decide +kernel

/-- V-H3, V-H4: P0.TAG, and words 0 and 1 of p. -/
theorem test_read_words :
    ((State.reset.access (hostRead 0x340#12)).bus, (State.reset.access (hostRead 0xA00#12)).bus,
        (State.reset.access (hostRead 0xA04#12)).bus) =
      (some (.read 1#32 false), some (.read 0xFFFFFC2F#32 false), some (.read 0xFFFFFFFE#32 false)) := by
  decide +kernel

/-- V-H7, V-H8: a misaligned read and a byte write are refused. -/
theorem test_refused_accesses :
    State.reset.access ⟨false, 0x001#12, 2#2, 0#32⟩ = { State.reset with bus := some (.read 0#32 true) } ∧
      State.reset.access ⟨true, 0x100#12, 0#2, 0xFF#32⟩ = { State.reset with bus := some (.write true) } := by
  decide +kernel

/-- V-H10, V-H11: KSIGN keeps bit 0, CBUF word 8 keeps its low byte. -/
theorem test_narrow_registers :
    ((State.reset.access (hostWrite 0x010#12 0xFFFFFFFF#32)).access (hostRead 0x010#12)).bus = some (.read 1#32 false) ∧
      ((State.reset.access (hostWrite 0x920#12 0xFFFFFFFF#32)).access (hostRead 0x920#12)).bus =
        some (.read 0x000000FF#32 false) := by
  decide +kernel

/-- V-H12: the byte lanes of CBUF word 0. -/
theorem test_cbuf_lanes :
    ((State.reset.access (hostWrite 0x900#12 0x66BE7902#32)).cbuf.toList.take 4) = [0x02#8, 0x79#8, 0xBE#8, 0x66#8] := by
  decide +kernel

/-- V-H13: an issue. -/
theorem test_issue_status : (State.reset.access (hostWrite 0x00C#12 0#32)).toRegs.statusWord = 0x00000001#32 := by decide +kernel

/-- V-H21, V-H23: CMD and KMAG writes are dropped while busy. -/
theorem test_busy_writes_dropped :
    stBusy.access (hostWrite 0x00C#12 0x00000020#32) = { stBusy with ovr := true, bus := some (.write false) } ∧
      stBusy.access (hostWrite 0x020#12 7#32) = { stBusy with ovr := true, bus := some (.write false) } := by
  decide +kernel

/-- V-H26, V-H27: CMD reads exactly while busy, and a soft reset abandons the command. -/
theorem test_busy_read_and_reset :
    (stBusy.access (hostRead 0x00C#12)).bus = some (.read 0x00000140#32 false) ∧
      (stBusy.access (hostWrite 0x004#12 2#32)).toRegs = Regs.reset := by
  decide +kernel

/-- V-H28: a refused access sets no flag while busy. -/
theorem test_busy_refused :
    stBusy.access ⟨true, 0x302#12, 2#2, 1#32⟩ = { stBusy with bus := some (.write true) } := by decide +kernel

/-- R99, R100: assembler lines. -/
theorem test_assembler :
    assemble "FADD f2, f0, f1".toList = some [.fadd 2 0 1] ∧ assemble "fldc f3, #GX ; x".toList = some [.fldc 3 3] ∧
      assemble "FMOV f2, f3, f3".toList = none ∧ assemble "PADD p8, p0, p1".toList = none ∧
      assemble "PSUB p1, p2, p3, p4".toList = some [.pneg 4 3, .padd 1 2 4] := by
  decide +kernel

/-! ### Witnesses: the hypotheses of each statement are met

A theorem `witness_<statement>` gives concrete data that meet the hypotheses of each clause of that statement, at the ends of
their ranges. The statements SpecExampleWordsDecode, EveryStepAnswersANextState, InvariantHoldsAtReset, PldgLoadsTheGenerator,
JaddComputesTheMixedSum and JdblComputesTheDoubledTriple have none. -/

/-- A state that meets the invariant, with points and a triple off their reset values. -/
def stInv : State := { stJ j2 g3 with agenda := [.core], errcode := 7#4, done := true }

theorem stInv_inv : stInv.Inv := by
  refine ⟨?_, ?_, ?_, ?_⟩ <;> decide +kernel

/-- A busy block that meets the invariant. -/
theorem stBusy_inv : stBusy.Inv := by
  refine ⟨?_, ?_, ?_, ?_⟩ <;> decide +kernel

theorem witness_DecodeOfEncodeIsTheCommand : (Instr.fldc 15 6).wellFormed = true ∧ (Instr.jadd 3 3 7).wellFormed = true := by
  decide

theorem witness_DecoderAcceptsExactlyTheLegalWords : decode 0x00600F16#32 = some (.fldc 15 6) := by decide

theorem witness_IllegalWordsEndWithIllegalCommand :
    (∃ s : State, s.busy = true ∧ Legal s.cmd = false ∧ s.agenda = []) ∧
      ∃ s : State, s.busy = true ∧ Legal s.cmd = false ∧ s.agenda = [.core, .hwReset] :=
  ⟨⟨{ stBusy with cmd := 0x00700516#32 }, by decide +kernel⟩,
    ⟨{ stBusy with cmd := 0x01000000#32, agenda := [.core, .hwReset] }, by decide +kernel⟩⟩

theorem witness_StepRunsTheDecodedCommand :
    (∃ s : State, s.busy = true ∧ decode s.cmd = some (.pmul 1 0) ∧ s.agenda = []) ∧
      ∃ s : State, s.busy = true ∧ decode s.cmd = some (.pmul 1 0) ∧ s.agenda = [.core] :=
  ⟨⟨stBusy, by decide +kernel⟩, ⟨{ stBusy with agenda := [.core] }, by decide +kernel⟩⟩

theorem witness_StepTakesTheFirstEvent :
    (State.reset.busy = false ∧ State.reset.agenda = []) ∧ (stInv.busy = false ∧ stInv.agenda = .core :: []) ∧
      (∃ s : State, s.agenda = .access (hostRead 0x008#12) :: []) ∧ ∃ s : State, s.agenda = .hwReset :: [] :=
  ⟨by decide +kernel, by decide +kernel, ⟨{ stBusy with agenda := [.access (hostRead 0x008#12)] }, rfl⟩,
    ⟨{ stBusy with agenda := [.hwReset] }, rfl⟩⟩

theorem witness_CommandsWriteOnlyTheirDestination :
    (Instr.fadd 15 0 1).destF ≠ some 14 ∧ (Instr.pmul 7 0).destP ≠ some 6 ∧ (Instr.jld 3 0).destJ ≠ some 2 ∧
      (Instr.pdec 0).writesBool = false ∧ (Instr.pdec 0).writesCbuf = false := by
  decide

theorem witness_FailedCommandsChangeNoResult :
    ∃ t, exec (.finv 1 0) State.reset = .next t ∧ t.errcode ≠ 0#4 :=
  ⟨State.reset.raiseErr .noModularInverse, rfl, by decide⟩

theorem witness_CommandsEndWithTheirCodesOnly :
    ((Instr.fldc 15 6).wellFormed = true ∧ stInv.Inv) ∧ Legal 0x00000823#32 = false :=
  ⟨⟨by decide, stInv_inv⟩, by decide⟩

theorem witness_EveryStepKeepsTheInvariant : stInv.Inv ∧ step stInv = .next { stInv with agenda := [] } :=
  ⟨stInv_inv, rfl⟩

/-- FADD, FSUB, FMUL and MMUL have the same hypotheses: canonical operands up to p - 1, and operands from p to 2^256 - 1. -/
theorem witness_binary_field_commands :
    (fNat (stF pm1 pm1) 0 < Config.p ∧ fNat (stF pm1 pm1) 1 < Config.p) ∧ Config.p ≤ fNat (stF pVal 0) 0 ∧
      Config.p ≤ fNat (stF 0 (BitVec.allOnes 256)) 1 := by
  decide +kernel

theorem witness_FinvIsTheModularInverse :
    (fNat (stF pm1 0) 0 < Config.p ∧ fNat (stF pm1 0) 0 ≠ 0) ∧ fNat (stF 0 1) 0 = 0 ∧ Config.p ≤ fNat (stF pVal 0) 0 := by
  decide +kernel

theorem witness_FsqrtFindsTheRootOrClearsBool :
    (fNat (stF 0 1) 0 < Config.p ∧ ∃ y, y * y % Config.p = fNat (stF 0 1) 0) ∧
      (fNat (stF pm1 0) 0 < Config.p ∧ ¬ ∃ y, y * y % Config.p = fNat (stF pm1 0) 0) ∧ Config.p ≤ fNat (stF pVal 0) 0 := by
  refine ⟨⟨by decide +kernel, 0, by decide +kernel⟩, ⟨by decide +kernel, ?_⟩, by decide +kernel⟩
  have h := no_root_of_powMod (Config.p - 1) (by
    rw [Ne, ZMod.natCast_eq_zero_iff]
    decide +kernel) (by decide +kernel)
  rwa [show (Config.p - 1) % Config.p = fNat (stF pm1 0) 0 by decide +kernel] at h

theorem witness_FldcLoadsTheSelectedConstant : (6#4 : Selector).toNat ≤ 6 ∧ 7 ≤ (7#4 : Selector).toNat := by decide

/-- PMK and PCHKXY have the same hypotheses. -/
theorem witness_coordinate_commands :
    (fNat (stF gX gY) 0 < Config.p ∧ fNat (stF gX gY) 1 < Config.p ∧
        onE ((stF gX gY).toRegs.getF 0) ((stF gX gY).toRegs.getF 1)) ∧
      (fNat (stF pm1 0) 0 < Config.p ∧ fNat (stF pm1 0) 1 < Config.p ∧
        ¬ onE ((stF pm1 0).toRegs.getF 0) ((stF pm1 0).toRegs.getF 1)) ∧
      Config.p ≤ fNat (stF pVal 0) 0 ∧ Config.p ≤ fNat (stF 0 pVal) 1 := by
  unfold onE
  decide +kernel

theorem witness_PnegNegatesThePoint : State.reset.toRegs.getP 7 = .inf ∧ (stP g1 .inf).toRegs.getP 0 = .aff gX gY := by
  decide +kernel

theorem canonicalY_aff {A : Point} (x y : W256) (h : A = .aff x y) (hy : y.toNat < Config.p) :
    ∀ x' y', A = .aff x' y' → y'.toNat < Config.p := by
  rintro x' y' h'
  rw [h] at h'
  injection h' with _ e
  exact e ▸ hy

theorem witness_PaddIsTheGroupLaw :
    ((∀ x y, (stP g1 .inf).toRegs.getP 0 = .aff x y → y.toNat < Config.p) ∧
        SumOf ((stP g1 .inf).toRegs.getP 0) ((stP g1 .inf).toRegs.getP 1) (some g1)) ∧
      SumOf ((stP (.aff 0 1) (.aff 0 2)).toRegs.getP 0) ((stP (.aff 0 1) (.aff 0 2)).toRegs.getP 1) none ∧
      ((stP g1 g2).toRegs.getP 0).valid = true ∧ ((stP g1 g2).toRegs.getP 1).valid = true := by
  refine ⟨⟨canonicalY_aff gX gY rfl (by decide +kernel), rfl⟩, ?_, by decide +kernel, by decide +kernel⟩
  show SumOf (.aff 0 1) (.aff 0 2) none
  simp only [SumOf]
  rw [if_neg (by decide +kernel), if_neg (by decide +kernel), if_pos (sub_self _)]
  trivial

theorem witness_PdblDoublesThePoint :
    ∀ x y, (stP (.aff gX pm1) .inf).toRegs.getP 0 = .aff x y → y.toNat < Config.p :=
  canonicalY_aff gX pm1 rfl (by decide +kernel)

theorem witness_JtoaGivesTheAffinePoint : ((stJ ⟨0, 0, pm1⟩ .inf).toRegs.getJ 0).z.toNat < Config.p := by decide +kernel

theorem witness_PchkTestsMembership :
    State.reset.toRegs.getP 0 = .inf ∧ ((stP g1 .inf).toRegs.getP 0 = .aff gX gY ∧ onE gX gY) ∧
      ((stP (.aff 0 0) .inf).toRegs.getP 0 = .aff 0 0 ∧ ¬ onE 0 0) ∧ ((stP g2 .inf).toRegs.getP 0).valid = true := by
  unfold onE
  decide +kernel

theorem witness_PeqComparesStructurally :
    (stP g1 g1).toRegs.getP 0 = (stP g1 g1).toRegs.getP 1 ∧ (stP g1 gNeg).toRegs.getP 0 ≠ (stP g1 gNeg).toRegs.getP 1 := by
  decide +kernel

theorem witness_JldLoadsTheTriple :
    State.reset.toRegs.getP 0 = .inf ∧ (stP g1 .inf).toRegs.getP 0 = .aff gX gY ∧
      ((stP g1 .inf).toRegs.getP 0).valid = true ∧ ∃ t, exec (.jld 3 0) (stP g1 .inf) = .next t :=
  ⟨by decide +kernel, by decide +kernel, by decide +kernel, _, rfl⟩

theorem witness_PmulDoublesAndAdds :
    sMul (if (stK true 1 g1).ksign then -((stK true 1 g1).kmag.toNat : Int) else (stK true 1 g1).kmag.toNat)
        ((stK true 1 g1).toRegs.getP 0) = .ok gNeg ∧ 0 < 1 ∧ sMul (1 : Nat) g1 = .ok g1 := by
  decide +kernel

theorem witness_PmulIsRepeatedAddition : ((stK true (BitVec.allOnes 256) g1).toRegs.getP 0).valid = true := by decide +kernel

theorem witness_ScalarMultiplesCompose :
    g1.valid = true ∧ (-1 : Int).natAbs < 2 ^ 256 ∧ (2 ^ 256 - 1 : Int).natAbs < 2 ^ 256 ∧
      (-1 * (2 ^ 256 - 1) : Int).natAbs < 2 ^ 256 := by
  decide +kernel

theorem witness_PencWritesTheCompressedForm :
    State.reset.toRegs.getP 7 = .inf ∧ (stP g1 .inf).toRegs.getP 0 = .aff gX gY := by
  decide +kernel

theorem cbufNat_stC (lead : Byte) (x : W256)
    (h : ((List.finRange 32).map fun i : Fin 32 => ((stC lead x).cbuf[1 + i.val]).toNat * 256 ^ (31 - i.val)).sum = x.toNat) :
    cbufNat (stC lead x) = x.toNat := by
  rw [← h]
  exact (List.sum_ofFn (f := fun i : Fin 32 => ((stC lead x).cbuf[1 + i.val]).toNat * 256 ^ (31 - i.val))).symm.trans
    (by rw [List.ofFn_eq_map])

theorem witness_PdecReadsTheCompressedForm :
    ((stC 0x04 gX).cbuf[0] ≠ 0x02#8 ∧ (stC 0x04 gX).cbuf[0] ≠ 0x03#8) ∧
      ((stC 0x02 pVal).cbuf[0] = 0x02#8 ∧ Config.p ≤ cbufNat (stC 0x02 pVal)) ∧
      ((stC 0x03 0).cbuf[0] = 0x03#8 ∧ cbufNat (stC 0x03 0) < Config.p ∧
        ¬ ∃ y, y * y % Config.p = (cbufNat (stC 0x03 0) ^ 3 + 7) % Config.p) ∧
      ((stC 0x02 gX).cbuf[0] = 0x02#8 ∧ cbufNat (stC 0x02 gX) < Config.p ∧
        ∃ y, y * y % Config.p = (cbufNat (stC 0x02 gX) ^ 3 + 7) % Config.p) := by
  rw [cbufNat_stC 0x02 pVal (by decide +kernel), cbufNat_stC 0x03 0 (by decide +kernel),
    cbufNat_stC 0x02 gX (by decide +kernel)]
  refine ⟨by decide +kernel, by decide +kernel, ⟨by decide +kernel, by decide +kernel, ?_⟩, by decide +kernel,
    by decide +kernel, gY.toNat, by decide +kernel⟩
  have h := no_root_of_powMod 7 (by
    rw [Ne, ZMod.natCast_eq_zero_iff]
    decide +kernel) (by decide +kernel)
  simpa using h

theorem witness_CodecRoundTrips :
    ((stP g1 .inf).toRegs.getP 0 = .aff gX gY ∧ (Point.aff gX gY).valid = true) ∧
      ∃ t, exec (.pdec 0) (stC 0x02 gX) = .next t ∧ t.errcode = 0#4 := by
  refine ⟨by decide +kernel, ?_⟩
  obtain ⟨r, -, h⟩ | ⟨e, he, -⟩ := exec_cases (.pdec 0) (stC 0x02 gX)
  · exact ⟨_, h, rfl⟩
  · have : (result (.pdec 0) (stC 0x02 gX).toRegs).toOption.isSome = true := by decide +kernel
    rw [he] at this
    cases this

theorem witness_NopChangesNothing : opOf 0x00000100#32 = 0x00#8 ∧ (0x00000100#32 : W32) ≠ 0#32 := by decide

theorem witness_NoCurvePointHasYZero : gX.toNat < Config.p ∧ gY.toNat < Config.p ∧ onE gX gY := by
  unfold onE
  decide +kernel

/-- The three statements about valid points. -/
theorem witness_group_law : g1.valid = true ∧ gNeg.valid = true ∧ Point.inf.valid = true := by decide +kernel

theorem witness_JacobianAgreesWithTheAffineLaw :
    (j2.valid = true ∧ g2.valid = true) ∧ ((⟨0, 0, 0⟩ : Jac).valid = true ∧ Point.inf.valid = true) := by
  decide +kernel

theorem witness_OnlyAlignedWordAccessesAreAdmitted :
    (3#2 : BitVec 2) ≠ 2#2 ∧ (0xFFF#12 : Offset).toNat % 4 ≠ 0 ∧ (0xFFC#12 : Offset).toNat % 4 = 0 := by
  decide

theorem witness_idle_block : State.reset.busy = false := rfl

theorem witness_BusyWritesAreDropped :
    stBusy.busy = true ∧ (0x020#12 : Offset).toNat % 4 = 0 ∧ (0x03C#12 : Offset).toNat < 0x040 ∧
      (0x2FC#12 : Offset).toNat < 0x300 ∧ (0x920#12 : Offset).toNat < 0x924 ∧ 0x924 ≤ (0x924#12 : Offset).toNat ∧
      (0#32 : W32)[1] = false ∧ (2#32 : W32)[1] = true := by
  decide

theorem witness_ReadsHaveNoSideEffect :
    (State.reset.busy = false ∧ (0xFFC#12 : Offset).toNat % 4 = 0) ∧ (0x00C#12 : Offset).toNat < 0x010 ∧
      0x44 ≤ ((0x344#12 : Offset).toNat - 0x300) % 0x80 ∧ 0x60 ≤ ((0x760#12 : Offset).toNat - 0x700) % 0x80 ∧
      (stBusy.busy = true ∧ ((0x340#12 : Offset).toNat - 0x300) % 0x80 < 0x44 ∧
        ((0x75C#12 : Offset).toNat - 0x700) % 0x80 < 0x60) := by
  decide

theorem witness_ConstantsAndReservedOffsetsAreFixed :
    (0x000#12 : Offset).toNat = 0 ∧ (0x01C#12 : Offset).toNat < 0x020 ∧ (0x0FC#12 : Offset).toNat < 0x100 ∧
      0x44 ≤ ((0x37C#12 : Offset).toNat - 0x300) % 0x80 ∧ 0x60 ≤ ((0x77C#12 : Offset).toNat - 0x700) % 0x80 ∧
      0x924 ≤ (0x924#12 : Offset).toNat ∧ 0xA80 ≤ (0xA80#12 : Offset).toNat := by
  decide

theorem witness_PointAndTripleWindows :
    ((0x8FC#12 : Offset).toNat % 4 = 0 ∧ 0x300 ≤ (0x300#12 : Offset).toNat ∧ (0x8FC#12 : Offset).toNat < 0x900) ∧
      ((stP g1 .inf).busy = false ∧ (stP g1 .inf).toRegs.getP 7 = .inf ∧ (stP g1 .inf).toRegs.getP 0 = .aff gX gY) := by
  decide +kernel

/-- CTRL and IRQ: both values of bit 1, and bit 0 = 0. -/
theorem witness_ctrl_words : (1#32 : W32)[1] = false ∧ (2#32 : W32)[1] = true ∧ (0#32 : W32)[0] = false := by decide

theorem witness_ResetGivesTheResetState : (∃ s : State, s.agenda = .hwReset :: []) ∧ (3#32 : W32)[1] = true :=
  ⟨⟨{ stBusy with agenda := [.hwReset] }, rfl⟩, by decide⟩

theorem witness_BusyHostCannotDisturbTheCommand :
    ∃ (s : State) (host : List Event), s.busy = true ∧ (∀ e ∈ host, e.isAccess = true ∧ e.isReset = false) ∧
      s.agenda = host ++ [.core] :=
  ⟨{ stBusy with agenda := [.access (hostWrite 0x020#12 7#32), .access (hostRead 0x380#12), .core] },
    [.access (hostWrite 0x020#12 7#32), .access (hostRead 0x380#12)], by decide +kernel, by decide +kernel, rfl⟩

theorem witness_CompletionAlwaysHappens :
    ∃ s : State, s.busy = true ∧ ∀ e ∈ s.agenda, e.isReset = false :=
  ⟨{ stBusy with agenda := [.access (hostWrite 0x004#12 1#32), .access (hostWrite 0x00C#12 0#32)] }, by decide +kernel,
    by decide +kernel⟩

theorem witness_RacingWriteAndCompletion :
    stBusy.busy = true ∧ (∃ u, step { stBusy with agenda := [] } = .next u) ∧ (2#32 : W32)[1] = true := by
  refine ⟨rfl, ?_, by decide⟩
  have hd : decode ({ stBusy with agenda := [] } : State).cmd = some (.pmul 1 0) := by decide +kernel
  have hs : step { stBusy with agenda := [] } = exec (.pmul 1 0) { stBusy with agenda := [] } := by
    rw [step, coreTurn, if_pos (by decide +kernel), execWord, hd]
  rw [hs]
  obtain ⟨r, -, h⟩ | ⟨e, -, h⟩ := exec_cases (.pmul 1 0) { stBusy with agenda := [] }
  · exact ⟨_, h⟩
  · exact ⟨_, h⟩

theorem witness_PseudoInstructionsGiveTheirResults :
    (fNat (stF pm1 1) 0 < Config.p ∧ fNat (stF pm1 1) 1 < Config.p ∧ (2 : FReg) ≠ 0) ∧ fNat (stF pm1 1) 1 ≠ 0 ∧
      fNat (stF pm1 0) 1 = 0 ∧ ((stP g1 g2).toRegs.getP 0).valid = true ∧ ((stP g1 g2).toRegs.getP 1).valid = true ∧
      (2 : PReg) ≠ 0 := by
  decide +kernel

theorem witness_AssemblerReadsTheDisassembly : decode 0x00600F16#32 = some (.fldc 15 6) ∧ Legal 0xFFFFFFFF#32 = false := by
  decide

theorem witness_HostDirectivesWriteWholeRegisters : State.reset.busy = false ∧ (-(2 ^ 256 - 1) : Int).natAbs < 2 ^ 256 := by
  decide +kernel

end Sys2Proof.Tests
end

/-! PROOFS. No point of the curve has y = 0 (R6): -7 is not a cube modulo p. -/

namespace Sys2Proof.Machine

/-- Membership as `onE` states it, read in Z/p (R1). -/
theorem onE_iff (x y : W256) : onE x y ↔ fe y ^ 2 = fe x ^ 3 + 7 := by
  unfold onE fe
  rw [← ZMod.natCast_eq_natCast_iff']
  push_cast
  rfl

/-- The cubic form of Euler's criterion, one way, for p ≡ 1 (mod 3): a nonzero value whose (p-1)/3-th power is not 1 is no
cube modulo p. -/
theorem not_cube_of_powMod (a : Nat) (ha : (a : ZMod Config.p) ≠ 0)
    (h : powMod Config.p a 256 ((Config.p - 1) / 3) ≠ 1) (x : ZMod Config.p) : x ^ 3 ≠ a := by
  intro hx
  have := p_fact
  have hx0 : x ≠ 0 := by
    rintro rfl
    exact ha (by rw [← hx, zero_pow three_ne_zero])
  have hpow : ((a ^ ((Config.p - 1) / 3) : Nat) : ZMod Config.p) = (1 : Nat) := by
    rw [Nat.cast_pow, ← hx, ← pow_mul, show 3 * ((Config.p - 1) / 3) = Config.p - 1 by decide, Nat.cast_one]
    exact ZMod.pow_card_sub_one_eq_one hx0
  apply h
  rw [powMod_eq _ _ _ _ (by decide), (ZMod.natCast_eq_natCast_iff' _ _ _).1 hpow]
  decide

theorem cast_p_sub_seven : ((Config.p - 7 : Nat) : ZMod Config.p) = -7 := by
  rw [Nat.cast_sub (by decide), ZMod.natCast_self, zero_sub, Nat.cast_ofNat]

/-- x³ + 7 has no root in Z/p, by the computation of (-7)^((p-1)/3) that R6 names. -/
theorem cube_add_seven_ne_zero (x : ZMod Config.p) : x ^ 3 + 7 ≠ 0 := by
  intro h
  refine not_cube_of_powMod (Config.p - 7) ?_ (by decide +kernel) x ?_
  · rw [Ne, ZMod.natCast_eq_zero_iff]
    decide
  · rw [cast_p_sub_seven]
    exact eq_neg_of_add_eq_zero_left h

/-- Settles O39: were y = 0, x would be a root of x³ + 7 in Z/p. -/
theorem noCurvePointHasYZero : Obligations.NoCurvePointHasYZero := by
  rintro x y - - hE rfl
  have h0 : fe 0#256 = 0 := by simp [fe]
  rw [onE_iff, h0, zero_pow two_ne_zero] at hE
  exact cube_add_seven_ne_zero (fe x) hE.symm

end Sys2Proof.Machine

/-! PROOFS. The curve in Z/p: valid points and triples, and that the group law, the Jacobian formulas, the scalar loop and the
decoder keep them (R31, R33). -/

namespace Sys2Proof.Machine

/-! ### The machine's arithmetic, read in Z/p -/

@[simp] theorem cast_ival_eq_fe (x : W256) : ((ival x : Int) : ZMod Config.p) = fe x := cast_ival x

@[simp] theorem fe_modP (a : Int) : fe (modP a) = (a : ZMod Config.p) := cast_modP a

@[simp] theorem fe_zero : fe 0#256 = 0 := by simp [fe]

@[simp] theorem fe_one : fe 1#256 = 1 := by simp [fe]

theorem fe_eq_zero_iff {x : W256} (hx : canonical x = true) : fe x = 0 ↔ x = 0#256 :=
  cast_eq_zero_iff ((canonical_iff x).1 hx)

theorem fe_ne_zero {x : W256} (hx : canonical x = true) (h0 : x ≠ 0#256) : fe x ≠ 0 :=
  mt (fe_eq_zero_iff hx).1 h0

theorem fe_invP {x : W256} (hx : canonical x = true) (h0 : x ≠ 0#256) : fe (invP x) = (fe x)⁻¹ :=
  cast_invP h0 ((canonical_iff x).1 hx)

theorem onCurve_iff_fe (x y : W256) : onCurve x y = true ↔ fe y ^ 2 = fe x ^ 3 + 7 := onCurve_iff x y

theorem two_ne_zero_modP : (2 : ZMod Config.p) ≠ 0 := by
  rw [← Nat.cast_ofNat, Ne, ZMod.natCast_eq_zero_iff]
  decide

/-! ### Points -/

@[simp] theorem Point.valid_inf : Point.inf.valid = true := rfl

/-- R31 for an affine pair, in Z/p. -/
theorem Point.valid_aff_iff (x y : W256) :
    (Point.aff x y).valid = true ↔ canonical x = true ∧ canonical y = true ∧ fe y ^ 2 = fe x ^ 3 + 7 := by
  simp [Point.valid, onCurve_iff_fe, and_assoc]

theorem generator_valid : generator.valid = true := by decide +kernel

theorem affNeg_valid {A : Point} (hA : A.valid = true) : (affNeg A).valid = true := by
  cases A with
  | inf => rfl
  | aff x y =>
    obtain ⟨hx, -, hE⟩ := (Point.valid_aff_iff x y).1 hA
    exact (Point.valid_aff_iff _ _).2 ⟨hx, canonical_modP _, by simpa using hE⟩

/-- The third point of a line of slope l through (x1, y1) lies on the curve if x2 is the abscissa of the line's second point:
the relation `hl` is the curve equation at x2 less that at x1, divided by x2 - x1. -/
theorem third_point_on_curve {R : Type} [CommRing R] {l x1 y1 x2 : R} (h1 : y1 ^ 2 = x1 ^ 3 + 7)
    (hl : 2 * y1 * l + l ^ 2 * (x2 - x1) = x1 ^ 2 + x1 * x2 + x2 ^ 2) :
    (l * (x1 - (l ^ 2 - x1 - x2)) - y1) ^ 2 = (l ^ 2 - x1 - x2) ^ 3 + 7 := by
  linear_combination h1 + (l ^ 2 - x1 - x2 - x1) * hl

theorem chord_valid {l x1 y1 x2 : W256} (h1 : fe y1 ^ 2 = fe x1 ^ 3 + 7)
    (hl : 2 * fe y1 * fe l + fe l ^ 2 * (fe x2 - fe x1) = fe x1 ^ 2 + fe x1 * fe x2 + fe x2 ^ 2) :
    (chord l x1 y1 x2).valid = true := by
  refine (Point.valid_aff_iff _ _).2 ⟨canonical_modP _, canonical_modP _, ?_⟩
  have := third_point_on_curve h1 hl
  simpa [pow_two] using this

/-- The tangent slope of R134 is the quotient of the field. -/
theorem fe_tangentSlope {x y : W256} (hy : canonical y = true) (h0 : y ≠ 0#256) :
    fe (tangentSlope x y) = 3 * fe x * fe x * (2 * fe y)⁻¹ := by
  have := p_fact
  have hm : fe (modP (2 * ival y)) = 2 * fe y := by simp
  have hd : fe (modP (2 * ival y)) ≠ 0 := hm ▸ mul_ne_zero two_ne_zero_modP (fe_ne_zero hy h0)
  have hm0 : modP (2 * ival y) ≠ 0#256 := mt (fe_eq_zero_iff (canonical_modP _)).2 hd
  simp [tangentSlope, fe_invP (canonical_modP _) hm0, Config.a]

theorem affDbl_aff (x y : W256) :
    affDbl (.aff x y) = if y = 0#256 then .inf else chord (tangentSlope x y) x y x := rfl

theorem affDbl_valid {A : Point} (hA : A.valid = true) : (affDbl A).valid = true := by
  cases A with
  | inf => rfl
  | aff x y =>
    have := p_fact
    obtain ⟨-, hy, hE⟩ := (Point.valid_aff_iff x y).1 hA
    rw [affDbl_aff]
    split
    · rfl
    · next h0 =>
      have hd : 2 * fe y ≠ 0 := mul_ne_zero two_ne_zero_modP (fe_ne_zero hy h0)
      refine chord_valid hE ?_
      rw [fe_tangentSlope hy h0, sub_self, mul_zero, add_zero, mul_left_comm, mul_inv_cancel₀ hd]
      ring

/-- The secant slope of R133 is the quotient of the field. -/
theorem fe_secantSlope {x1 x2 : W256} (y1 y2 : W256) (h0 : modP (ival x2 - ival x1) ≠ 0#256) :
    fe (secantSlope y1 y2 (modP (ival x2 - ival x1))) = (fe y2 - fe y1) * (fe x2 - fe x1)⁻¹ := by
  simp [secantSlope, fe_invP (canonical_modP _) h0]

theorem secant_valid {x1 y1 x2 y2 : W256} (hA : (Point.aff x1 y1).valid = true) (hB : (Point.aff x2 y2).valid = true)
    (h0 : modP (ival x2 - ival x1) ≠ 0#256) :
    (chord (secantSlope y1 y2 (modP (ival x2 - ival x1))) x1 y1 x2).valid = true := by
  have := p_fact
  obtain ⟨-, -, hE1⟩ := (Point.valid_aff_iff x1 y1).1 hA
  obtain ⟨-, -, hE2⟩ := (Point.valid_aff_iff x2 y2).1 hB
  have hd : fe x2 - fe x1 ≠ 0 := by simpa [modP_eq_zero_iff] using h0
  obtain ⟨l, hl⟩ : ∃ l, fe (secantSlope y1 y2 (modP (ival x2 - ival x1))) = l := ⟨_, rfl⟩
  have hs : l * (fe x2 - fe x1) = fe y2 - fe y1 := by
    rw [← hl, fe_secantSlope y1 y2 h0, inv_mul_cancel_right₀ hd]
  refine chord_valid hE1 (mul_left_cancel₀ hd ?_)
  rw [hl]
  linear_combination hE2 - hE1 + (l * (fe x2 - fe x1) + fe y1 + fe y2) * hs

theorem affAdd_aff (x1 y1 x2 y2 : W256) :
    affAdd (.aff x1 y1) (.aff x2 y2) =
      if x1 = x2 ∧ modP (ival y1 + ival y2) = 0#256 then .ok .inf
      else if x1 = x2 ∧ y1 = y2 then .ok (affDbl (.aff x1 y1))
      else if modP (ival x2 - ival x1) = 0#256 then .error .noModularInverse
      else .ok (chord (secantSlope y1 y2 (modP (ival x2 - ival x1))) x1 y1 x2) := rfl

@[simp] theorem affAdd_inf_left (B : Point) : affAdd .inf B = .ok B := rfl

@[simp] theorem affAdd_inf_right (A : Point) : affAdd A .inf = .ok A := by cases A <;> rfl

theorem affAdd_valid {A B C : Point} (hA : A.valid = true) (hB : B.valid = true) (h : affAdd A B = .ok C) :
    C.valid = true := by
  match A, B with
  | .inf, B => cases h; exact hB
  | .aff _ _, .inf => cases h; exact hA
  | .aff x1 y1, .aff x2 y2 =>
    rw [affAdd_aff] at h
    split_ifs at h with h1 h2 h3
    · cases h; rfl
    · cases h; exact affDbl_valid hA
    · cases h; exact secant_valid hA hB h3

/-! ### Scalar multiples -/

theorem sMulLoop_valid {k : Nat} {A : Point} (hA : A.valid = true) :
    ∀ (i : Nat) {acc R : Point}, acc.valid = true → sMulLoop k A i acc = .ok R → R.valid = true
  | 0, acc, R, hacc, h => by cases h; exact hacc
  | i + 1, acc, R, hacc, h => by
    unfold sMulLoop at h
    split at h
    · next acc' hstep =>
      refine sMulLoop_valid hA i ?_ h
      split at hstep
      · exact affAdd_valid (affDbl_valid hacc) hA hstep
      · cases hstep; exact affDbl_valid hacc
    · cases h

theorem sMulNat_valid {k : Nat} {A R : Point} (hA : A.valid = true) (h : sMulNat k A = .ok R) : R.valid = true := by
  unfold sMulNat at h
  split_ifs at h
  · cases h; rfl
  · cases h; exact hA
  · exact sMulLoop_valid hA _ Point.valid_inf h

theorem sMul_valid {k : Int} {A R : Point} (hA : A.valid = true) (h : sMul k A = .ok R) : R.valid = true := by
  unfold sMul at h
  split at h
  · exact sMulNat_valid (affNeg_valid hA) h
  · exact sMulNat_valid hA h

/-! ### Decompression -/

@[simp] theorem fe_curveRhs (x : W256) : fe (curveRhs x) = fe x ^ 3 + 7 := by
  have hb : fe Config.b = 7 := rfl
  simp [curveRhs, Config.a, hb, pow_three']

/-- A root of the right side of the curve equation is the ordinate of a point (R176). -/
theorem valid_of_isRootOf {x c : W256} (hx : canonical x = true) (hc : canonical c = true)
    (h : isRootOf c (curveRhs x) = true) : (Point.aff x c).valid = true := by
  refine (Point.valid_aff_iff x c).2 ⟨hx, hc, ?_⟩
  have : fe (modP (ival c * ival c)) = fe (curveRhs x) := congrArg fe (of_decide_eq_true h)
  simpa [pow_two] using this

theorem decompress_valid {lead : Byte} {x : W256} {A : Point} (h : decompress lead x = .ok A) : A.valid = true := by
  dsimp only [decompress] at h
  split_ifs at h with hlead hx hroot hparity hzero
  all_goals
    have hA := valid_of_isRootOf (by simpa using hx) (canonical_sqrtCandidate _) (by simpa using hroot)
    cases h
  · exact hA
  · exact affNeg_valid hA

/-! ### Jacobian triples -/

@[simp] theorem Jac.valid_inf : Jac.inf.valid = true := rfl

theorem Jac.rep_of_z_ne_zero {T : Jac} (h : T.z ≠ 0#256) :
    T.rep = .aff (modP (ival T.x * (ival (invP T.z) * ival (invP T.z))))
      (modP (ival T.y * (ival (invP T.z) * ival (invP T.z) * ival (invP T.z)))) := if_neg h

/-- R33 in Z/p: the curve equation of a triple with Z ≠ 0, cleared of its denominators. -/
theorem Jac.isOnCurve_rep_iff {T : Jac} (hz : canonical T.z = true) (h0 : T.z ≠ 0#256) :
    T.rep.isOnCurve = true ↔ fe T.y ^ 2 = fe T.x ^ 3 + 7 * fe T.z ^ 6 := by
  have := p_fact
  have hz0 := fe_ne_zero hz h0
  rw [Jac.rep_of_z_ne_zero h0]
  simp only [Point.isOnCurve, onCurve_iff_fe, fe_modP, Int.cast_mul, cast_ival_eq_fe, fe_invP hz h0]
  field_simp

theorem Jac.valid_iff (T : Jac) :
    T.valid = true ↔ T = Jac.inf ∨ (canonical T.x = true ∧ canonical T.y = true ∧ canonical T.z = true ∧
      T.z ≠ 0#256 ∧ fe T.y ^ 2 = fe T.x ^ 3 + 7 * fe T.z ^ 6) := by
  simp only [Jac.valid, Bool.or_eq_true, Bool.and_eq_true, decide_eq_true_eq, and_assoc]
  refine or_congr_right (and_congr_right fun _ => and_congr_right fun _ => and_congr_right fun hz =>
    and_congr_right fun h0 => Jac.isOnCurve_rep_iff hz h0)

theorem Jac.rep_valid {T : Jac} (hT : T.valid = true) : T.rep.valid = true := by
  by_cases h0 : T.z = 0#256
  · rw [Jac.rep, if_pos h0]
    rfl
  · have hE : T.rep.isOnCurve = true := by
      obtain rfl | ⟨-, -, hz, -, hE⟩ := (Jac.valid_iff T).1 hT
      · exact absurd rfl h0
      · exact (Jac.isOnCurve_rep_iff hz h0).2 hE
    rw [Jac.rep_of_z_ne_zero h0] at hE ⊢
    exact Bool.and_eq_true_iff.2 ⟨by simp, hE⟩

theorem Jac.ofPoint_valid {A : Point} (hA : A.valid = true) : (Jac.ofPoint A).valid = true := by
  cases A with
  | inf => rfl
  | aff x y =>
    obtain ⟨hx, hy, hE⟩ := (Point.valid_aff_iff x y).1 hA
    have hz : canonical 1#256 = true ∧ 1#256 ≠ 0#256 := by decide
    exact (Jac.valid_iff _).2 (.inr ⟨hx, hy, hz.1, hz.2, by simpa [Jac.ofPoint] using hE⟩)

/-- JDBL's formulas in Z/p (R153). -/
theorem jacDbl_doubleOf (T : Jac) : JacDoubleOf T (jacDbl T) := by
  unfold JacDoubleOf jacDbl
  split_ifs
  · rfl
  · refine ⟨canonical_modP _, canonical_modP _, canonical_modP _, ?_, ?_, ?_⟩ <;>
      push_cast [fe_modP, cast_ival_eq_fe] <;> ring

/-- The curve equation of the doubled triple is 64·Y⁶ times that of the triple. -/
theorem jacobian_double_on_curve {R : Type} [CommRing R] {X Y Z X' : R} (h : Y ^ 2 = X ^ 3 + 7 * Z ^ 6)
    (hX : X' = (3 * X ^ 2) ^ 2 - 2 * (4 * X * Y ^ 2)) :
    (3 * X ^ 2 * (4 * X * Y ^ 2 - X') - 8 * Y ^ 4) ^ 2 = X' ^ 3 + 7 * (2 * Y * Z) ^ 6 := by
  subst hX
  linear_combination 64 * Y ^ 6 * h

theorem JacDoubleOf.valid {T T' : Jac} (hT : T.valid = true) (h : JacDoubleOf T T') : T'.valid = true := by
  have := p_fact
  unfold JacDoubleOf at h
  split_ifs at h with h0
  · exact h ▸ Jac.valid_inf
  · rw [not_or] at h0
    obtain ⟨hz0, hy0⟩ := h0
    obtain rfl | ⟨-, hy, hz, -, hE⟩ := (Jac.valid_iff T).1 hT
    · exact absurd rfl hz0
    · obtain ⟨hx', hy', hz', hX, hY, hZ⟩ := h
      have hZ0 : fe T'.z ≠ 0 := by
        rw [hZ]
        exact mul_ne_zero (mul_ne_zero two_ne_zero_modP (fe_ne_zero hy hy0)) (fe_ne_zero hz hz0)
      refine (Jac.valid_iff T').2 (.inr ⟨hx', hy', hz', mt (fe_eq_zero_iff hz').2 hZ0, ?_⟩)
      rw [hY, hZ]
      exact jacobian_double_on_curve hE hX

/-- The general case of R152 in Z/p. -/
theorem fe_jacChord (T : Jac) (H r : W256) :
    fe (jacChord T H r).x = fe r ^ 2 - fe H ^ 3 - 2 * (fe T.x * fe H ^ 2) ∧
      fe (jacChord T H r).y = fe r * (fe T.x * fe H ^ 2 - fe (jacChord T H r).x) - fe T.y * fe H ^ 3 ∧
      fe (jacChord T H r).z = fe T.z * fe H := by
  refine ⟨?_, ?_, ?_⟩ <;> push_cast [jacChord, fe_modP, cast_ival_eq_fe] <;> ring

/-- JADD's formulas in Z/p (R152). -/
theorem jacAdd_sumOf (T : Jac) (B : Point) : JacSumOf T B (jacAdd T B) := by
  cases B with
  | inf => rfl
  | aff x y =>
    have hH : fe (modP (ival (modP (ival x * ival (modP (ival T.z * ival T.z)))) - ival T.x)) =
        fe x * fe T.z ^ 2 - fe T.x := by simp [pow_two]
    have hr : fe (modP (ival (modP (ival y * ival T.z * ival (modP (ival T.z * ival T.z)))) - ival T.y)) =
        fe y * fe T.z ^ 3 - fe T.y := by
      push_cast [fe_modP, cast_ival_eq_fe]
      ring
    dsimp only [JacSumOf, jacAdd]
    simp only [← fe_eq_zero_iff (canonical_modP _), hH, hr]
    split_ifs
    · rfl
    · exact jacDbl_doubleOf T
    · rfl
    · rw [← hH, ← hr]
      exact ⟨canonical_modP _, canonical_modP _, canonical_modP _, fe_jacChord T _ _⟩

/-- The curve equation of the mixed sum, from those of the triple and of the point scaled by Z² and Z³ (its scaled
coordinates are X + H and Y + r). -/
theorem jacobian_sum_on_curve {R : Type} [CommRing R] {X Y c H r X' : R} (hA : Y ^ 2 = X ^ 3 + c)
    (hB : (Y + r) ^ 2 = (X + H) ^ 3 + c) (hX : X' = r ^ 2 - H ^ 3 - 2 * (X * H ^ 2)) :
    (r * (X * H ^ 2 - X') - Y * H ^ 3) ^ 2 = X' ^ 3 + c * H ^ 6 := by
  subst hX
  linear_combination H ^ 6 * hA + (r ^ 2 - H ^ 3 - 3 * X * H ^ 2) * H ^ 3 * (hB - hA)

theorem JacSumOf.valid {T T' : Jac} {B : Point} (hT : T.valid = true) (hB : B.valid = true) (h : JacSumOf T B T') :
    T'.valid = true := by
  have := p_fact
  cases B with
  | inf => exact h ▸ hT
  | aff x y =>
    dsimp only [JacSumOf] at h
    split_ifs at h with hz0 hH hr
    · exact h ▸ Jac.ofPoint_valid hB
    · exact h.valid hT
    · exact h ▸ Jac.valid_inf
    · obtain rfl | ⟨-, -, hz, -, hE⟩ := (Jac.valid_iff T).1 hT
      · exact absurd rfl hz0
      · obtain ⟨-, -, hEB⟩ := (Point.valid_aff_iff x y).1 hB
        obtain ⟨hx', hy', hz', hX, hY, hZ⟩ := h
        have hZ0 : fe T'.z ≠ 0 := by
          rw [hZ]
          exact mul_ne_zero (fe_ne_zero hz hz0) hH
        refine (Jac.valid_iff T').2 (.inr ⟨hx', hy', hz', mt (fe_eq_zero_iff hz').2 hZ0, ?_⟩)
        rw [hY, hZ, mul_pow, ← mul_assoc]
        refine jacobian_sum_on_curve hE ?_ hX
        linear_combination fe T.z ^ 6 * hEB

end Sys2Proof.Machine

/-! PROOFS. The invariant of the machine (R31, R33, R200, R70): every command keeps valid registers, and every step keeps the
invariant. -/

namespace Sys2Proof.Machine

/-! ### Valid register files -/

/-- R31 and R33 of the registers alone: every P register and every J register is valid. -/
structure Regs.Valid (r : Regs) : Prop where
  points : ∀ i, (r.getP i).valid = true
  triples : ∀ i, (r.getJ i).valid = true

theorem State.Inv.regs {s : State} (h : s.Inv) : s.toRegs.Valid := ⟨h.points, h.triples⟩

theorem Regs.Valid.setF {r : Regs} (h : r.Valid) (i : FReg) (v : W256) : (r.setF i v).Valid := ⟨h.points, h.triples⟩

theorem Regs.Valid.setBool {r : Regs} (h : r.Valid) (b : Bool) : (r.setBool b).Valid := ⟨h.points, h.triples⟩

theorem Regs.Valid.setCbuf {r : Regs} (h : r.Valid) (c : Vector Byte 33) : (r.setCbuf c).Valid := ⟨h.points, h.triples⟩

theorem Regs.Valid.setP {r : Regs} (h : r.Valid) (i : PReg) {A : Point} (hA : A.valid = true) : (r.setP i A).Valid := by
  refine ⟨fun k => ?_, h.triples⟩
  rw [Regs.getP_setP]
  split
  · exact hA
  · exact h.points k

theorem Regs.Valid.setJ {r : Regs} (h : r.Valid) (i : JReg) {T : Jac} (hT : T.valid = true) : (r.setJ i T).Valid := by
  refine ⟨h.points, fun k => ?_⟩
  rw [Regs.getJ_setJ]
  split
  · exact hT
  · exact h.triples k

theorem Regs.reset_valid : Regs.reset.Valid := ⟨fun i => by simp, fun i => by simp⟩

/-! ### Commands -/

/-- The check of R110: what a field operand fetch returns is canonical. -/
theorem canonical_of_fop {r : Regs} {i : FReg} {x : W256} (h : r.fop i = .ok x) : canonical x = true := by
  obtain ⟨hc, he⟩ | ⟨-, he⟩ := r.fop_cases i <;> rw [he] at h <;> cases h
  exact hc

/-- The first computation of a successful sequence succeeds, and so does the rest. -/
theorem ok_of_bind_ok {α β : Type} {m : Except Err α} {f : α → Except Err β} {b : β} (h : (m >>= f) = .ok b) :
    ∃ a, m = .ok a ∧ f a = .ok b := by
  cases m with
  | ok a => exact ⟨a, rfl, h⟩
  | error e => cases h

theorem fieldBinary_ok {g : W256 → W256 → W256} {rd rs1 rs2 : FReg} {r r' : Regs}
    (h : fieldBinary g rd rs1 rs2 r = .ok r') : ∃ v, r' = r.setF rd v := by
  obtain ⟨x, -, h⟩ := ok_of_bind_ok h
  obtain ⟨y, -, h⟩ := ok_of_bind_ok h
  cases h
  exact ⟨_, rfl⟩

/-- Every command that succeeds leaves valid registers valid (R31, R33). -/
theorem result_valid {i : Instr} {r r' : Regs} (hr : r.Valid) (h : result i r = .ok r') : r'.Valid := by
  cases i with
  | nop => cases h; exact hr
  | fadd rd rs1 rs2 => obtain ⟨v, rfl⟩ := fieldBinary_ok h; exact hr.setF rd v
  | fsub rd rs1 rs2 => obtain ⟨v, rfl⟩ := fieldBinary_ok h; exact hr.setF rd v
  | fmul rd rs1 rs2 => obtain ⟨v, rfl⟩ := fieldBinary_ok h; exact hr.setF rd v
  | mmul rd rs1 rs2 => obtain ⟨v, rfl⟩ := fieldBinary_ok h; exact hr.setF rd v
  | finv rd rs1 =>
    obtain ⟨x, -, h⟩ := ok_of_bind_ok h
    by_cases hx : x = 0#256
    · rw [if_pos hx] at h; cases h
    · rw [if_neg hx] at h; cases h; exact hr.setF rd _
  | fsqrt rd rs1 =>
    obtain ⟨x, -, h⟩ := ok_of_bind_ok h
    dsimp only at h
    split at h <;> cases h
    · exact (hr.setF rd _).setBool true
    · exact hr.setBool false
  | fldc rd imm =>
    obtain ⟨v, -, h⟩ := ok_of_bind_ok h
    cases h
    exact hr.setF rd v
  | pldg rd => cases h; exact hr.setP rd generator_valid
  | pmk rd rs1 rs2 =>
    obtain ⟨x, hx, h⟩ := ok_of_bind_ok h
    obtain ⟨y, hy, h⟩ := ok_of_bind_ok h
    split at h
    · next hE =>
      cases h
      exact hr.setP rd ((Point.valid_aff_iff x y).2 ⟨canonical_of_fop hx, canonical_of_fop hy, (onCurve_iff_fe x y).1 hE⟩)
    · cases h
  | pneg rd rs1 => cases h; exact hr.setP rd (affNeg_valid (hr.points rs1))
  | padd rd rs1 rs2 =>
    obtain ⟨A, hA, h⟩ := ok_of_bind_ok h
    cases h
    exact hr.setP rd (affAdd_valid (hr.points rs1) (hr.points rs2) hA)
  | pdbl rd rs1 => cases h; exact hr.setP rd (affDbl_valid (hr.points rs1))
  | pchk rs1 => cases h; exact hr.setBool _
  | pchkxy rs1 rs2 =>
    obtain ⟨x, -, h⟩ := ok_of_bind_ok h
    obtain ⟨y, -, h⟩ := ok_of_bind_ok h
    cases h
    exact hr.setBool _
  | peq rs1 rs2 => cases h; exact hr.setBool _
  | jld rd rs1 => cases h; exact hr.setJ rd (Jac.ofPoint_valid (hr.points rs1))
  | jadd rd rs1 rs2 => cases h; exact hr.setJ rd ((jacAdd_sumOf _ _).valid (hr.triples rs1) (hr.points rs2))
  | jdbl rd rs1 => cases h; exact hr.setJ rd ((jacDbl_doubleOf _).valid (hr.triples rs1))
  | jtoa rd rs1 => cases h; exact hr.setP rd (Jac.rep_valid (hr.triples rs1))
  | pmul rd rs1 =>
    obtain ⟨A, hA, h⟩ := ok_of_bind_ok h
    cases h
    exact hr.setP rd (sMul_valid (hr.points rs1) hA)
  | penc rs1 =>
    dsimp only [result, runPenc] at h
    split at h <;> cases h
    exact hr.setCbuf _
  | pdec rd =>
    obtain ⟨A, hA, h⟩ := ok_of_bind_ok h
    cases h
    exact hr.setP rd (decompress_valid hA)

/-! ### The invariant -/

/-- The invariant speaks of P, J, ERRCODE, BUSY and DONE only, and DONE may fall. -/
theorem State.Inv.congr {s t : State} (h : s.Inv) (hp : t.p = s.p) (hj : t.j = s.j) (he : t.errcode = s.errcode)
    (hb : t.busy = s.busy) (hd : t.done = true → s.done = true) : t.Inv := by
  refine ⟨fun i => ?_, fun i => ?_, he ▸ h.code, fun hbusy => ?_⟩
  · rw [Regs.getP, hp]
    exact h.points i
  · rw [Regs.getJ, hj]
    exact h.triples i
  · obtain ⟨hdone, hcode⟩ := h.inProgress (hb ▸ hbusy)
    exact ⟨Bool.eq_false_iff.2 fun ht => by simp [hd ht] at hdone, he.trans hcode⟩

theorem State.inv_of_regs_reset {s : State} (h : s.toRegs = Regs.reset) : s.Inv := by
  refine ⟨?_, ?_, ?_, ?_⟩ <;> rw [h]
  · exact Regs.reset_valid.points
  · exact Regs.reset_valid.triples
  · decide
  · decide

theorem State.inv_succeed (s : State) {r : Regs} (h : r.Valid) : (s.succeed r).Inv :=
  ⟨h.points, h.triples, by simp, by simp⟩

theorem Err.code_le (e : Err) : e.code.toNat ≤ 7 := by cases e <;> decide

theorem State.Inv.raiseErr {s : State} (h : s.Inv) (e : Err) : (s.raiseErr e).Inv :=
  ⟨h.points, h.triples, e.code_le, by simp⟩

theorem State.Inv.issue {s : State} (h : s.Inv) (v : W32) : (s.issue v).Inv :=
  ⟨h.points, h.triples, by simp, by simp⟩

theorem State.Inv.interlocked {s t : State} (h : s.Inv) (ht : t.Inv) : (s.interlocked t).Inv := by
  cases hb : s.busy with
  | false => rwa [State.interlocked_idle hb]
  | true =>
    rw [State.interlocked_busy hb]
    exact h.congr rfl rfl rfl rfl id

theorem State.Inv.writeCtrl {s : State} (h : s.Inv) (v : W32) : (s.writeCtrl v).Inv := by
  unfold State.writeCtrl
  split
  · exact State.inv_of_regs_reset rfl
  · exact h.congr rfl rfl rfl rfl id

theorem State.Inv.writeStatus {s : State} (h : s.Inv) (v : W32) : (s.writeStatus v).Inv := by
  have hclear : (if v[1] then s.clearDone else s).Inv := by
    split
    · exact h.congr rfl rfl rfl rfl (by simp)
    · exact h
  unfold State.writeStatus
  dsimp only
  split
  · exact hclear.congr rfl rfl rfl rfl id
  · exact hclear

/-- Every admitted write keeps the invariant (R64). -/
theorem State.Inv.writeLoc {s : State} (h : s.Inv) (l : Loc) (v : W32) : (s.writeLoc l v).Inv := by
  cases l with
  | ctrl => exact h.writeCtrl v
  | status => exact h.writeStatus v
  | cmd => exact h.interlocked (h.issue v)
  | ksign => exact h.interlocked (h.congr rfl rfl rfl rfl id)
  | kmag w => exact h.interlocked (h.congr rfl rfl rfl rfl id)
  | f i w => exact h.interlocked (h.congr rfl rfl rfl rfl id)
  | cbuf k => exact h.interlocked (h.congr rfl rfl rfl rfl id)
  | _ => exact h

theorem State.Inv.access {s : State} (h : s.Inv) (a : Access) : (s.access a).Inv := by
  obtain ⟨-, e⟩ | ⟨-, -, e⟩ | ⟨-, -, -, -, e⟩ | ⟨-, -, -, e⟩ := s.access_cases a <;> rw [e]
  · exact h.congr rfl rfl rfl rfl id
  · exact (h.writeLoc (locate a.addr) a.wdata).congr rfl rfl rfl rfl id
  · exact h.congr rfl rfl rfl rfl id
  · exact h.congr rfl rfl rfl rfl id

theorem State.Inv.exec {s t : State} (h : s.Inv) {i : Instr} (ht : exec i s = .next t) : t.Inv := by
  obtain ⟨r, hr, e⟩ | ⟨err, -, e⟩ := exec_cases i s <;> rw [e] at ht <;> cases ht
  · exact s.inv_succeed (result_valid h.regs hr)
  · exact h.raiseErr err

theorem State.Inv.coreTurn {s t : State} (h : s.Inv) (ht : coreTurn s = .next t) : t.Inv := by
  obtain ⟨-, e⟩ | ⟨-, i, -, e⟩ | ⟨-, -, e⟩ := coreTurn_cases s <;> rw [e] at ht
  · cases ht
    exact h
  · exact h.exec ht
  · cases ht
    exact h.raiseErr _

/-- Settles O12, by the first event of the agenda: the core's turn, a host access or rst_n. -/
theorem everyStepKeepsTheInvariant : Obligations.EveryStepKeepsTheInvariant := by
  intro s t h ht
  have hrest (rest : List Event) : ({ s with agenda := rest } : State).Inv := h.congr rfl rfl rfl rfl id
  unfold step at ht
  split at ht
  · exact h.coreTurn ht
  · next rest _ => exact (hrest rest).coreTurn ht
  · next a rest _ =>
    cases ht
    exact (hrest rest).access a
  · next rest _ =>
    cases ht
    exact State.inv_of_regs_reset rfl

end Sys2Proof.Machine

/-! PROOFS. The register window (R21-R24, R32, R33, R35-R37): what the host reads and writes at each offset. -/

namespace Sys2Proof.Machine

/-! ### Reads and writes at an offset -/

theorem aligned_ofNat {n : Nat} (h : n % 4 = 0) : (BitVec.ofNat 12 n).toNat % 4 = 0 := by
  rw [BitVec.toNat_ofNat]
  omega

/-- A read is exact while BUSY = 0, and outside the data windows at all times (R63, R75). -/
theorem State.readAt_exact {s : State} {l : Loc} (h : s.busy = false ∨ l.isData = false) :
    s.readAt l = { s with bus := some (.read (s.toRegs.readLoc l) false) } := by
  unfold State.readAt
  rw [if_neg]
  rcases h with h | h <;> simp [h]

theorem State.access_hostRead_exact {s : State} {o : Offset} {l : Loc} (h4 : o.toNat % 4 = 0) (hl : locate o = l)
    (h : s.busy = false ∨ l.isData = false) :
    s.access (hostRead o) = { s with bus := some (.read (s.toRegs.readLoc l) false) } := by
  rw [State.access_hostRead s h4, hl, State.readAt_exact h]

theorem State.access_hostWrite_at (s : State) {o : Offset} {l : Loc} (v : W32) (h4 : o.toNat % 4 = 0)
    (hl : locate o = l) : s.access (hostWrite o v) = { s.writeLoc l v with bus := some (.write false) } := by
  rw [State.access_hostWrite s v h4, hl, State.writeAt]

/-! ### Offsets that no write changes -/

/-- The word-aligned offsets that Table 10-1 reserves (R37). -/
abbrev ReservedAt (n : Nat) : Prop :=
  (0x014 ≤ n ∧ n < 0x020) ∨ (0x040 ≤ n ∧ n < 0x100) ∨ (0x300 ≤ n ∧ n < 0x700 ∧ 0x44 ≤ (n - 0x300) % 0x80) ∨
    (0x700 ≤ n ∧ n < 0x900 ∧ 0x60 ≤ (n - 0x700) % 0x80) ∨ (0x924 ≤ n ∧ n < 0xA00) ∨ 0xA80 ≤ n

theorem locate_eq_reserved_iff {o : Offset} (h4 : o.toNat % 4 = 0) : locate o = .reserved ↔ ReservedAt o.toNat :=
  of_decide_eq_true
    (aligned_offsets (fun n => decide (locateNat n = .reserved ↔ ReservedAt n)) (by decide +kernel) o.toNat o.isLt h4)

/-- The word-aligned offsets that a write leaves alone: ID, the P and J windows, the constants and the reserved offsets. -/
abbrev InertAt (n : Nat) : Prop :=
  n = 0x000 ∨ (0x014 ≤ n ∧ n < 0x020) ∨ (0x040 ≤ n ∧ n < 0x100) ∨ (0x300 ≤ n ∧ n < 0x900) ∨ 0x924 ≤ n

theorem inert_locate_iff {o : Offset} (h4 : o.toNat % 4 = 0) : (locate o).inert = true ↔ InertAt o.toNat :=
  of_decide_eq_true
    (aligned_offsets (fun n => decide ((locateNat n).inert = true ↔ InertAt n)) (by decide +kernel) o.toNat o.isLt h4)

theorem State.access_hostWrite_inert (s : State) {o : Offset} (v : W32) (h4 : o.toNat % 4 = 0) (h : InertAt o.toNat) :
    s.access (hostWrite o v) = { s with bus := some (.write false) } := by
  rw [State.access_hostWrite_at s v h4 rfl, State.writeLoc_inert ((inert_locate_iff h4).2 h)]

/-! ### ID, constants and reserved offsets -/

theorem locate_const (w : Fin 8) :
    locate (BitVec.ofNat 12 (0xA00 + 4 * w.val)) = .constP w ∧ locate (BitVec.ofNat 12 (0xA20 + 4 * w.val)) = .constGx w ∧
      locate (BitVec.ofNat 12 (0xA40 + 4 * w.val)) = .constGy w ∧
      locate (BitVec.ofNat 12 (0xA60 + 4 * w.val)) = .constB w := by
  revert w
  decide +kernel

theorem wordOf_ofNat {n : Nat} (hn : n < 2 ^ 256) (w : Fin 8) :
    wordOf (BitVec.ofNat 256 n) w = BitVec.ofNat 32 (n / 2 ^ (32 * w.val)) := by
  rw [wordOf_eq_ofNat, BitVec.toNat_ofNat, Nat.mod_eq_of_lt hn]

/-- A constant of value n reads as word w of n whatever BUSY is (R36). -/
theorem State.access_hostRead_const (s : State) {o n : Nat} {l : Loc} {w : Fin 8} (h4 : o % 4 = 0)
    (hl : locate (BitVec.ofNat 12 o) = l) (hdata : l.isData = false) (hn : n < 2 ^ 256)
    (hread : s.toRegs.readLoc l = wordOf (BitVec.ofNat 256 n) w) :
    s.access (hostRead (BitVec.ofNat 12 o)) =
      { s with bus := some (.read (BitVec.ofNat 32 (n / 2 ^ (32 * w.val))) false) } := by
  rw [State.access_hostRead_exact (aligned_ofNat h4) hl (.inr hdata), hread, wordOf_ofNat hn]

/-- Settles O47: each of these offsets names an inert word outside the data windows. -/
theorem constantsAndReservedOffsetsAreFixed : Obligations.ConstantsAndReservedOffsetsAreFixed := by
  intro s v
  refine ⟨fun o h4 h => s.access_hostWrite_inert v h4 ?_, ?_, fun o h4 h => ?_, fun w => ?_⟩
  · omega
  · exact State.access_hostRead_exact (l := .id) (by decide) (by decide) (.inr rfl)
  · exact State.access_hostRead_exact h4 ((locate_eq_reserved_iff h4).2 h) (.inr rfl)
  · obtain ⟨hp, hgx, hgy, hb⟩ := locate_const w
    exact ⟨s.access_hostRead_const (by omega) hp rfl (by decide) rfl,
      s.access_hostRead_const (by omega) hgx rfl (by decide) rfl,
      s.access_hostRead_const (by omega) hgy rfl (by decide) rfl,
      s.access_hostRead_const (by omega) hb rfl (by decide) rfl⟩

/-! ### P and J windows -/

/-- What the host reads while BUSY = 0 (R63). -/
theorem State.bus_hostRead_idle {s : State} (hb : s.busy = false) {n : Nat} {l : Loc} (h4 : n % 4 = 0)
    (hl : locate (BitVec.ofNat 12 n) = l) :
    (s.access (hostRead (BitVec.ofNat 12 n))).bus = some (.read (s.toRegs.readLoc l) false) := by
  rw [State.access_hostRead_exact (aligned_ofNat h4) hl (.inl hb)]

/-- The three windows of P[i] (R32). -/
theorem State.bus_hostRead_p {s : State} (hb : s.busy = false) (i w : Fin 8) :
    (s.access (hostRead (BitVec.ofNat 12 (0x300 + 0x80 * i.val + 4 * w.val)))).bus =
        some (.read (wordOf (s.toRegs.getP i).xView w) false) ∧
      (s.access (hostRead (BitVec.ofNat 12 (0x320 + 0x80 * i.val + 4 * w.val)))).bus =
        some (.read (wordOf (s.toRegs.getP i).yView w) false) ∧
      (s.access (hostRead (BitVec.ofNat 12 (0x340 + 0x80 * i.val)))).bus =
        some (.read (s.toRegs.getP i).tagView false) := by
  obtain ⟨hx, hy, htag⟩ := locate_p i w
  exact ⟨State.bus_hostRead_idle hb (by omega) hx, State.bus_hostRead_idle hb (by omega) hy,
    State.bus_hostRead_idle hb (by omega) htag⟩

@[simp] theorem wordOf_zero (w : Fin 8) : wordOf 0#256 w = 0#32 := by simp [wordOf]

/-- Settles O48: the writes are inert, and the reads are the views of P[i] and the words of J[i]. -/
theorem pointAndTripleWindows : Obligations.PointAndTripleWindows := by
  intro s
  refine ⟨fun o v h4 hlo hhi => s.access_hostWrite_inert v h4 ?_, fun hb i w => ⟨fun hA => ?_, fun x y hA => ?_⟩,
    fun hb i w => ?_⟩
  · omega
  · simpa [hA, Point.xView, Point.yView, Point.tagView] using State.bus_hostRead_p hb i w
  · simpa [hA, Point.xView, Point.yView, Point.tagView, wordOf_eq_ofNat] using State.bus_hostRead_p hb i w
  · obtain ⟨hx, hy, hz⟩ := locate_j i w
    simp only [← wordOf_eq_ofNat]
    exact ⟨State.bus_hostRead_idle hb (by omega) hx, State.bus_hostRead_idle hb (by omega) hy,
      State.bus_hostRead_idle hb (by omega) hz⟩

/-! ### The CBUF window -/

/-- Byte m of a host word of CBUF stands in bits 8m+7 to 8m (R35, R66). -/
theorem extractLsb'_cbufWord (buf : Vector Byte 33) (k : Fin 9) (m : Fin 4) :
    (cbufWord buf k).extractLsb' (8 * m.val) 8 = cbufByte buf k m.val := by
  unfold cbufWord
  match m with
  | 0 => exact BitVec.extractLsb'_append_eq_right
  | 1 =>
    rw [BitVec.extractLsb'_append_eq_of_le (by decide)]
    exact BitVec.extractLsb'_append_eq_right
  | 2 =>
    rw [BitVec.extractLsb'_append_eq_of_le (by decide), BitVec.extractLsb'_append_eq_of_le (by decide)]
    exact BitVec.extractLsb'_append_eq_right
  | 3 =>
    rw [BitVec.extractLsb'_append_eq_of_le (by decide), BitVec.extractLsb'_append_eq_of_le (by decide)]
    exact BitVec.extractLsb'_append_eq_left

/-- A write of host word k of CBUF changes bytes 4k to 4k + 3 alone (R35). -/
theorem getElem_setCbufWord (buf : Vector Byte 33) (k : Fin 9) (v : W32) (b : Fin 33) :
    (setCbufWord buf k v)[b.val] =
      if b.val / 4 = k.val then v.extractLsb' (8 * (b.val % 4)) 8 else buf[b.val] := by
  simp only [setCbufWord, Vector.getElem_setIfInBounds]
  by_cases hk : b.val / 4 = k.val
  · rw [if_pos hk]
    obtain hm | hm | hm | hm : b.val % 4 = 0 ∨ b.val % 4 = 1 ∨ b.val % 4 = 2 ∨ b.val % 4 = 3 := by omega
    · rw [if_neg (by omega), if_neg (by omega), if_neg (by omega), if_pos (by omega), hm]
    · rw [if_neg (by omega), if_neg (by omega), if_pos (by omega), hm]
    · rw [if_neg (by omega), if_pos (by omega), hm]
    · rw [if_pos (by omega), hm]
  · rw [if_neg hk, if_neg (by omega), if_neg (by omega), if_neg (by omega), if_neg (by omega)]

/-- Settles O53, by the byte lanes of `cbufWord` and `setCbufWord`. -/
theorem cbufWindowByteLanes : Obligations.CbufWindowByteLanes := by
  intro s hb k
  obtain ⟨h4, hl⟩ := locate_cbuf k
  refine ⟨⟨cbufWord s.cbuf k, ?_, extractLsb'_cbufWord s.cbuf k⟩, fun v => ⟨setCbufWord s.cbuf k v, ?_,
    getElem_setCbufWord s.cbuf k v⟩⟩
  · rw [State.access_hostRead_exact h4 hl (.inl hb)]
    rfl
  · rw [State.access_hostWrite_at s v h4 hl, State.writeLoc, State.interlocked_idle hb]
    rfl

/-! ### CTRL and STATUS -/

/-- Settles O49: CTRL is outside the data windows, and its write takes one of two branches on bit 1. -/
theorem ctrlReadsAndWrites : Obligations.CtrlReadsAndWrites := by
  intro s v
  have h4 : (0x004#12 : Offset).toNat % 4 = 0 := by decide
  have hl : locate 0x004#12 = .ctrl := by decide
  have hw := s.access_hostWrite_at v h4 hl
  refine ⟨?_, fun hv => ?_, fun hv => ?_⟩
  · rw [State.access_hostRead_exact h4 hl (.inr rfl)]
    cases h : s.irqen <;> simp [Regs.readLoc, h, bit]
  · rw [hw, State.writeLoc, State.writeCtrl, hv]
    rfl
  · rw [hw, State.writeLoc, State.writeCtrl, hv]
    exact ⟨rfl, rfl⟩

theorem toNat_append_add {m n : Nat} (x : BitVec m) (y : BitVec n) : (x ++ y).toNat = x.toNat * 2 ^ n + y.toNat := by
  rw [BitVec.toNat_append, ← Nat.shiftLeft_add_eq_or_of_lt y.isLt, Nat.shiftLeft_eq]

/-- The STATUS word by the weights of its fields (R24). -/
theorem Regs.toNat_statusWord (r : Regs) :
    r.statusWord.toNat = r.errcode.toNat * 256 + r.ovr.toNat * 16 + r.bool.toNat * 8 +
      (if r.errcode = 0#4 then 0 else 4) + r.done.toNat * 2 + r.busy.toNat := by
  have herr : r.err.toNat * 4 = if r.errcode = 0#4 then 0 else 4 := by
    by_cases h : r.errcode = 0#4 <;> simp [Regs.err, h]
  simp only [Regs.statusWord, toNat_append_add, bit, BitVec.toNat_ofBool, BitVec.toNat_ofNat]
  omega

/-- A write of STATUS clears DONE and OVR where the word has a 1 (R24, R27, R28). -/
theorem State.writeStatus_eq (s : State) (v : W32) :
    s.writeStatus v = { s with done := s.done && !v[1], ovr := s.ovr && !v[4] } := by
  unfold State.writeStatus State.clearDone
  cases v[1] <;> cases v[4] <;> simp

/-- Settles O51, by the weights of the STATUS word and the effect of its write. -/
theorem statusReadsAndWrites : Obligations.StatusReadsAndWrites := by
  intro s v
  have h4 : (0x008#12 : Offset).toNat % 4 = 0 := by decide
  have hl : locate 0x008#12 = .status := by decide
  refine ⟨⟨s.statusWord, State.access_hostRead_exact h4 hl (.inr rfl), s.toNat_statusWord⟩, ?_⟩
  rw [State.access_hostWrite_at s v h4 hl, State.writeLoc, State.writeStatus_eq]

end Sys2Proof.Machine

/-! PROOFS. Host accesses (R62-R64, R70, R74-R76): which are admitted, what a busy block does with a write, what a read
returns, and the operand windows. -/

namespace Sys2Proof.Machine

/-! ### Admission -/

theorem lowBits_eq_zero_iff (o : Offset) : o.extractLsb' 0 2 = 0#2 ↔ o.toNat % 4 = 0 := by
  refine ⟨fun h => ?_, lowBits_of_aligned⟩
  simpa [BitVec.extractLsb'_toNat] using congrArg BitVec.toNat h

/-- R62, in numbers. -/
theorem Access.admitted_iff (a : Access) : a.admitted = true ↔ a.size = 2#2 ∧ a.addr.toNat % 4 = 0 := by
  simp [Access.admitted, lowBits_eq_zero_iff]

/-- Settles O43, by the four things an access can do. -/
theorem onlyAlignedWordAccessesAreAdmitted : Obligations.OnlyAlignedWordAccessesAreAdmitted := by
  intro s a
  have hadm := a.admitted_iff
  obtain ⟨h, e⟩ | ⟨h, hwe, e⟩ | ⟨h, hwe, -, -, e⟩ | ⟨h, hwe, -, e⟩ := s.access_cases a
  · exact ⟨fun _ => e, fun hsize halign => by simp [hadm.2 ⟨hsize, halign⟩] at h⟩
  all_goals
    obtain ⟨hsize, halign⟩ := hadm.1 h
    refine ⟨fun hbad => by simp [hsize, halign] at hbad, fun _ _ => ?_⟩
    rw [e, hwe]
    simp

/-! ### Issue -/

/-- Settles O44: offset 0x00C names CMD, and an interlocked write is performed while BUSY = 0. -/
theorem cmdWriteIssues : Obligations.CmdWriteIssues := by
  intro s v hb
  rw [s.access_hostWrite_at (l := .cmd) v (by decide) (by decide), State.writeLoc, State.interlocked_idle hb]
  rfl

/-! ### Writes while BUSY = 1 -/

/-- The register words whose writes a busy block drops (R74). -/
def Loc.dropped : Loc → Bool
  | .cmd | .ksign | .kmag _ | .f _ _ | .cbuf _ => true
  | _ => false

/-- A busy block answers a write to an interlocked word with OVR alone (R74). -/
theorem State.writeLoc_dropped {s : State} (hb : s.busy = true) {l : Loc} (hl : l.dropped = true) (v : W32) :
    s.writeLoc l v = { s with ovr := true } := by
  cases l with
  | cmd | ksign | kmag | f | cbuf => exact State.interlocked_busy hb _
  | _ => cases hl

/-- The word-aligned offsets of CMD, KSIGN, KMAG, F and CBUF (Table 10-1). -/
abbrev DroppedAt (n : Nat) : Prop :=
  n = 0x00C ∨ n = 0x010 ∨ (0x020 ≤ n ∧ n < 0x040) ∨ (0x100 ≤ n ∧ n < 0x300) ∨ (0x900 ≤ n ∧ n < 0x924)

theorem dropped_locate_iff {o : Offset} (h4 : o.toNat % 4 = 0) : (locate o).dropped = true ↔ DroppedAt o.toNat :=
  of_decide_eq_true
    (aligned_offsets (fun n => decide ((locateNat n).dropped = true ↔ DroppedAt n)) (by decide +kernel) o.toNat o.isLt h4)

/-- Settles O45: the offset names a dropped word, an inert one, CTRL or STATUS. -/
theorem busyWritesAreDropped : Obligations.BusyWritesAreDropped := by
  intro s o v hb h4
  have hctrl (h : o.toNat = 0x004) : o = 0x004#12 := BitVec.eq_of_toNat_eq h
  have hstatus (h : o.toNat = 0x008) : o = 0x008#12 := BitVec.eq_of_toNat_eq h
  obtain ⟨-, hirqen, hreset⟩ := ctrlReadsAndWrites s v
  refine ⟨fun h => ?_, fun h => s.access_hostWrite_inert v h4 h, fun h hv => ?_, fun h hv => ?_, fun h => ?_⟩
  · rw [s.access_hostWrite_at v h4 rfl, State.writeLoc_dropped hb ((dropped_locate_iff h4).2 h)]
  · exact hctrl h ▸ hirqen hv
  · exact hctrl h ▸ (hreset hv).1
  · exact hstatus h ▸ (statusReadsAndWrites s v).2

/-! ### Reads -/

/-- The word-aligned offsets of the data windows: KSIGN, KMAG, F, P, J and CBUF (R63). -/
abbrev DataAt (n : Nat) : Prop :=
  n = 0x010 ∨ (0x020 ≤ n ∧ n < 0x040) ∨ (0x100 ≤ n ∧ n < 0x300) ∨
    (0x300 ≤ n ∧ n < 0x700 ∧ (n - 0x300) % 0x80 < 0x44) ∨ (0x700 ≤ n ∧ n < 0x900 ∧ (n - 0x700) % 0x80 < 0x60) ∨
    (0x900 ≤ n ∧ n < 0x924)

theorem isData_locate_iff {o : Offset} (h4 : o.toNat % 4 = 0) : (locate o).isData = true ↔ DataAt o.toNat :=
  of_decide_eq_true
    (aligned_offsets (fun n => decide ((locateNat n).isData = true ↔ DataAt n)) (by decide +kernel) o.toNat o.isLt h4)

/-- A read of a data window while BUSY = 1 draws a free word (R75). -/
theorem State.readAt_drawn {s : State} {l : Loc} (hb : s.busy = true) (hl : l.isData = true) :
    s.readAt l = { s with bus := some (.read (Config.busyRead s.draws) false), draws := s.draws + 1 } := by
  simp [State.readAt, hb, hl]

theorem State.readAt_toRegs (s : State) (l : Loc) : (s.readAt l).toRegs = s.toRegs := by
  unfold State.readAt
  split <;> rfl

theorem State.readAt_agenda (s : State) (l : Loc) : (s.readAt l).agenda = s.agenda := by
  unfold State.readAt
  split <;> rfl

/-- Settles O46: a read is exact or, of a data window while BUSY = 1, draws a free word. -/
theorem readsHaveNoSideEffect : Obligations.ReadsHaveNoSideEffect := by
  refine ⟨fun s => State.access_hostRead_exact (l := .cmd) (by decide) (by decide) (.inr rfl), fun s o h4 => ?_⟩
  have hdata := isData_locate_iff h4
  rw [s.access_hostRead h4]
  refine ⟨s.readAt_toRegs _, s.readAt_agenda _, fun hb => State.readAt_exact (.inl hb), fun h => ?_, fun hb h => ?_⟩
  · have hnot : ¬ DataAt o.toNat := by omega
    exact State.readAt_exact (.inr (Bool.eq_false_iff.2 (mt hdata.1 hnot)))
  · exact ⟨_, State.readAt_drawn hb (hdata.2 h)⟩

/-! ### Operand windows while BUSY = 0 -/

/-- The words of a value with word w replaced, as numbers (R21). -/
theorem setWord_words (x : W256) (w : Fin 8) (v : W32) (w' : Fin 8) :
    (setWord x w v).toNat / 2 ^ (32 * w'.val) % 2 ^ 32 =
      if w' = w then v.toNat else x.toNat / 2 ^ (32 * w'.val) % 2 ^ 32 := by
  rw [← wordOf_toNat, ← wordOf_toNat]
  split
  · next h => rw [h, wordOf_setWord]
  · next h => rw [wordOf_setWord_ne x h]

/-- What a read returns right after a write at the same offset that leaves the block idle (R76). -/
theorem State.bus_hostRead_hostWrite {s : State} {o : Offset} {l : Loc} (v : W32) (h4 : o.toNat % 4 = 0)
    (hl : locate o = l) (hb : (s.writeLoc l v).busy = false) :
    ((s.access (hostWrite o v)).access (hostRead o)).bus = some (.read ((s.writeLoc l v).toRegs.readLoc l) false) := by
  rw [s.access_hostWrite_at v h4 hl]
  exact congrArg State.bus (State.access_hostRead_exact h4 hl (.inl hb))

theorem State.writeLoc_f_idle {s : State} (hb : s.busy = false) (i : Fin 16) (w : Fin 8) (v : W32) :
    s.writeLoc (.f i w) v = { s with toRegs := s.toRegs.setF i (setWord (s.toRegs.getF i) w v) } :=
  State.interlocked_idle hb _

theorem State.writeLoc_kmag_idle {s : State} (hb : s.busy = false) (w : Fin 8) (v : W32) :
    s.writeLoc (.kmag w) v = { s with kmag := setWord s.kmag w v } :=
  State.interlocked_idle hb _

theorem State.writeLoc_ksign_idle {s : State} (hb : s.busy = false) (v : W32) :
    s.writeLoc .ksign v = { s with ksign := v[0] } :=
  State.interlocked_idle hb _

/-- Settles O52: an interlocked write is performed while BUSY = 0, and `setWord` changes the named word alone. -/
theorem operandWindowsReadBackWhatWasWritten : Obligations.OperandWindowsReadBackWhatWasWritten := by
  intro s v hb
  refine ⟨fun i w => ⟨setWord (s.toRegs.getF i) w v, ?_, setWord_words _ w v, ?_⟩,
    fun w => ⟨setWord s.kmag w v, ?_, setWord_words _ w v, ?_⟩, ?_, ?_⟩
  · obtain ⟨h4, hl⟩ := locate_f i w
    rw [s.access_hostWrite_at v h4 hl, State.writeLoc_f_idle hb]
    rfl
  · obtain ⟨h4, hl⟩ := locate_f i w
    have hw := State.writeLoc_f_idle hb i w v
    rw [State.bus_hostRead_hostWrite v h4 hl (by rw [hw]; exact hb), hw]
    simp [Regs.readLoc]
  · obtain ⟨h4, hl⟩ := locate_kmag w
    rw [s.access_hostWrite_at v h4 hl, State.writeLoc_kmag_idle hb]
  · obtain ⟨h4, hl⟩ := locate_kmag w
    have hw := State.writeLoc_kmag_idle hb w v
    rw [State.bus_hostRead_hostWrite v h4 hl (by rw [hw]; exact hb), hw]
    simp [Regs.readLoc]
  · rw [s.access_hostWrite_at (l := .ksign) v (by decide) (by decide), State.writeLoc_ksign_idle hb]
  · rw [State.access_hostRead_exact (l := .ksign) (by decide) (by decide) (.inl hb)]
    cases h : s.ksign <;> simp [Regs.readLoc, h, bit]

end Sys2Proof.Machine

/-! PROOFS. Commands and steps (R71-R76, R230): what a command may write, what the core's turn does, and that the host of a
busy block cannot disturb the command in progress. -/

namespace Sys2Proof.Machine

/-! ### What a command may write -/

/-- r' differs from r in nothing but what command i may write: the register it names as its destination (R30, R31, R33),
BOOL (R25) and CBUF (R35). BUSY, DONE and ERRCODE are the completion's, and left out. -/
structure Frame (i : Instr) (r r' : Regs) : Prop where
  f : ∀ k, i.destF ≠ some k → r'.getF k = r.getF k
  p : ∀ k, i.destP ≠ some k → r'.getP k = r.getP k
  j : ∀ k, i.destJ ≠ some k → r'.getJ k = r.getJ k
  bool : i.writesBool = false → r'.bool = r.bool
  cbuf : i.writesCbuf = false → r'.cbuf = r.cbuf
  ksign : r'.ksign = r.ksign
  kmag : r'.kmag = r.kmag
  irqen : r'.irqen = r.irqen
  ovr : r'.ovr = r.ovr
  cmd : r'.cmd = r.cmd

theorem Frame.refl (i : Instr) (r : Regs) : Frame i r r :=
  ⟨fun _ _ => rfl, fun _ _ => rfl, fun _ _ => rfl, fun _ => rfl, fun _ => rfl, rfl, rfl, rfl, rfl, rfl⟩

theorem Frame.setF {i : Instr} {rd : FReg} (h : i.destF = some rd) (r : Regs) (v : W256) : Frame i r (r.setF rd v) :=
  { Frame.refl i r with f := fun k hk => by rw [Regs.getF_setF, if_neg (by rintro rfl; exact hk h)] }

theorem Frame.setP {i : Instr} {rd : PReg} (h : i.destP = some rd) (r : Regs) (A : Point) : Frame i r (r.setP rd A) :=
  { Frame.refl i r with p := fun k hk => by rw [Regs.getP_setP, if_neg (by rintro rfl; exact hk h)] }

theorem Frame.setJ {i : Instr} {rd : JReg} (h : i.destJ = some rd) (r : Regs) (T : Jac) : Frame i r (r.setJ rd T) :=
  { Frame.refl i r with j := fun k hk => by rw [Regs.getJ_setJ, if_neg (by rintro rfl; exact hk h)] }

theorem Frame.setCbuf {i : Instr} (h : i.writesCbuf = true) (r : Regs) (c : Vector Byte 33) : Frame i r (r.setCbuf c) :=
  { Frame.refl i r with cbuf := fun hc => absurd (h.symm.trans hc) (by decide) }

theorem Frame.setBool {i : Instr} {r r' : Regs} (hr : Frame i r r') (h : i.writesBool = true) (b : Bool) :
    Frame i r (r'.setBool b) :=
  { hr with bool := fun hb => absurd (h.symm.trans hb) (by decide) }

/-- The result a successful command applies keeps the frame of Table 30-2. -/
theorem result_frame {i : Instr} {r r' : Regs} (h : result i r = .ok r') : Frame i r r' := by
  cases i with
  | nop => cases h; exact Frame.refl _ r
  | fadd | fsub | fmul | mmul => obtain ⟨v, rfl⟩ := fieldBinary_ok h; exact Frame.setF rfl r v
  | finv rd rs1 =>
    obtain ⟨x, -, h⟩ := ok_of_bind_ok h
    split at h <;> cases h
    exact Frame.setF rfl r _
  | fsqrt rd rs1 =>
    obtain ⟨x, -, h⟩ := ok_of_bind_ok h
    dsimp only at h
    split at h <;> cases h
    · exact (Frame.setF rfl r _).setBool rfl true
    · exact (Frame.refl _ r).setBool rfl false
  | fldc => obtain ⟨v, -, h⟩ := ok_of_bind_ok h; cases h; exact Frame.setF rfl r v
  | pmk =>
    obtain ⟨x, -, h⟩ := ok_of_bind_ok h
    obtain ⟨y, -, h⟩ := ok_of_bind_ok h
    split at h <;> cases h
    exact Frame.setP rfl r _
  | padd | pmul | pdec => obtain ⟨A, -, h⟩ := ok_of_bind_ok h; cases h; exact Frame.setP rfl r A
  | pldg | pneg | pdbl | jtoa => cases h; exact Frame.setP rfl r _
  | pchk | peq => cases h; exact (Frame.refl _ r).setBool rfl _
  | pchkxy =>
    obtain ⟨x, -, h⟩ := ok_of_bind_ok h
    obtain ⟨y, -, h⟩ := ok_of_bind_ok h
    cases h
    exact (Frame.refl _ r).setBool rfl _
  | jld | jadd | jdbl => cases h; exact Frame.setJ rfl r _
  | penc =>
    dsimp only [result, runPenc] at h
    split at h <;> cases h
    exact Frame.setCbuf rfl r _

/-- Every command completes (R71), and its completion keeps the frame. -/
theorem exec_completes (i : Instr) (s : State) :
    ∃ t, exec i s = .next t ∧ t.busy = false ∧ t.done = true ∧ Frame i s.toRegs t.toRegs ∧
      t.agenda = s.agenda ∧ t.bus = s.bus ∧ t.draws = s.draws := by
  obtain ⟨r, hr, e⟩ | ⟨err, -, e⟩ := exec_cases i s
  · exact ⟨s.succeed r, e, rfl, rfl, { result_frame hr with }, rfl, rfl, rfl⟩
  · exact ⟨s.raiseErr err, e, rfl, rfl, { Frame.refl i s.toRegs with }, rfl, rfl, rfl⟩

/-- Settles O8: every command completes, and what it applies keeps the frame. -/
theorem commandsWriteOnlyTheirDestination : Obligations.CommandsWriteOnlyTheirDestination := by
  intro i s
  obtain ⟨t, e, hbusy, hdone, fr, hmodel⟩ := exec_completes i s
  exact ⟨t, e, hbusy, hdone, fr.f, fr.p, fr.j, fr.bool, fr.cbuf, fr.ksign, fr.kmag, fr.irqen, fr.ovr, fr.cmd, hmodel⟩

/-! ### The step by the first event of the agenda -/

theorem step_of_agenda_nil {s : State} (h : s.agenda = []) : step s = coreTurn s := by
  rw [step, h]

theorem step_of_agenda_core {s : State} {rest : List Event} (h : s.agenda = .core :: rest) :
    step s = coreTurn { s with agenda := rest } := by
  rw [step, h]

theorem step_of_agenda_access {s : State} {a : Access} {rest : List Event} (h : s.agenda = .access a :: rest) :
    step s = .next (State.access { s with agenda := rest } a) := by
  rw [step, h]

theorem step_of_agenda_hwReset {s : State} {rest : List Event} (h : s.agenda = .hwReset :: rest) :
    step s = .next (State.hwReset { s with agenda := rest }) := by
  rw [step, h]

theorem coreTurn_idle {s : State} (hb : s.busy = false) : coreTurn s = .next s := by
  simp [coreTurn, hb]

theorem coreTurn_of_decode {s : State} {i : Instr} (hb : s.busy = true) (hd : decode s.cmd = some i) :
    coreTurn s = exec i s := by
  simp [coreTurn, execWord, hb, hd]

/-- Settles O5: while BUSY = 1 the core's turn is `exec` of the decoded command. -/
theorem stepRunsTheDecodedCommand : Obligations.StepRunsTheDecodedCommand := by
  intro s i hb hd
  exact ⟨fun h => (step_of_agenda_nil h).trans (coreTurn_of_decode hb hd),
    fun rest h => (step_of_agenda_core h).trans (coreTurn_of_decode hb hd)⟩

/-- Settles O6, by the equation of the step for each first event. -/
theorem stepTakesTheFirstEvent : Obligations.StepTakesTheFirstEvent := by
  intro s
  exact ⟨fun hb h => (step_of_agenda_nil h).trans (coreTurn_idle hb),
    fun rest hb h => (step_of_agenda_core h).trans (coreTurn_idle hb),
    fun a rest h => step_of_agenda_access h, fun rest h => step_of_agenda_hwReset h⟩

/-- The core's turn of a busy block completes the command in progress (R71, R96) and leaves CMD and the agenda alone. -/
theorem coreTurn_completes {s : State} (hb : s.busy = true) :
    ∃ t, coreTurn s = .next t ∧ t.busy = false ∧ t.done = true ∧ t.cmd = s.cmd ∧ t.agenda = s.agenda := by
  obtain ⟨hidle, -⟩ | ⟨-, i, -, e⟩ | ⟨-, -, e⟩ := coreTurn_cases s
  · simp [hb] at hidle
  · obtain ⟨t, ht, hbusy, hdone, fr, hagenda, -⟩ := exec_completes i s
    exact ⟨t, e.trans ht, hbusy, hdone, fr.cmd, hagenda⟩
  · exact ⟨_, e, rfl, rfl, rfl, rfl⟩

theorem coreTurn_next (s : State) : ∃ t, coreTurn s = .next t := by
  cases hb : s.busy with
  | false => exact ⟨s, coreTurn_idle hb⟩
  | true => obtain ⟨t, ht, -⟩ := coreTurn_completes hb; exact ⟨t, ht⟩

/-- Settles O7, by the first event: the core's turn, a host access or rst_n. -/
theorem everyStepAnswersANextState : Obligations.EveryStepAnswersANextState := by
  intro s
  match h : s.agenda with
  | [] => exact step_of_agenda_nil h ▸ coreTurn_next s
  | .core :: rest => exact step_of_agenda_core h ▸ coreTurn_next _
  | .access a :: rest => exact ⟨_, step_of_agenda_access h⟩
  | .hwReset :: rest => exact ⟨_, step_of_agenda_hwReset h⟩

theorem run_succ_of_step {s t : State} (h : step s = .next t) (k : Nat) :
    Host.Core.run core (k + 1) s = Host.Core.run core k t := by
  have hcore : core.step s = .next t := h
  simp only [Host.Core.run, hcore]

/-! ### The host of a busy block -/

/-- The registers with the three flags that a host without a reset can change while BUSY = 1. -/
def Regs.withFlags (r : Regs) (irqen done ovr : Bool) : Regs := { r with irqen := irqen, done := done, ovr := ovr }

/-- A host access without a reset leaves a busy block busy and changes IRQEN, DONE and OVR alone (R74, R75). -/
theorem State.access_busy {s : State} (hb : s.busy = true) {a : Access} (ha : (Event.access a).isReset = false) :
    (s.access a).agenda = s.agenda ∧ ∃ q d o, (s.access a).toRegs = s.toRegs.withFlags q d o := by
  have hsame : ∃ q d o, s.toRegs = s.toRegs.withFlags q d o := ⟨s.irqen, s.done, s.ovr, rfl⟩
  obtain ⟨-, e⟩ | ⟨hadm, hwe, e⟩ | ⟨-, -, -, -, e⟩ | ⟨-, -, -, e⟩ := s.access_cases a <;> rw [e]
  · exact ⟨rfl, hsame⟩
  · obtain ⟨hl, hv, -⟩ | ⟨q, d, o, e⟩ := State.writeLoc_busy hb (locate a.addr) a.wdata
    · simp [Event.isReset, hadm, hwe, hl, hv] at ha
    · rw [e]
      exact ⟨rfl, q, d, o, rfl⟩
  · exact ⟨rfl, hsame⟩
  · exact ⟨rfl, hsame⟩

/-- From a busy block with no reset planned, a run reaches the completion within the agenda and one step. -/
theorem run_completes : ∀ (events : List Event) (s : State), s.busy = true → s.agenda = events →
    (∀ e ∈ events, e.isReset = false) →
    ∃ k t, k ≤ events.length + 1 ∧ Host.Core.run core k s = .next t ∧ t.busy = false ∧ t.done = true ∧ t.cmd = s.cmd
  | [], s, hb, h, _ => by
    obtain ⟨t, ht, hbusy, hdone, hcmd, -⟩ := coreTurn_completes hb
    exact ⟨1, t, le_rfl, run_succ_of_step ((step_of_agenda_nil h).trans ht) 0, hbusy, hdone, hcmd⟩
  | .core :: rest, s, hb, h, _ => by
    obtain ⟨t, ht, hbusy, hdone, hcmd, -⟩ := coreTurn_completes (s := { s with agenda := rest }) hb
    exact ⟨1, t, by simp, run_succ_of_step ((step_of_agenda_core h).trans ht) 0, hbusy, hdone, hcmd⟩
  | .access a :: rest, s, hb, h, hreset => by
    obtain ⟨ha, hrest⟩ := List.forall_mem_cons.1 hreset
    obtain ⟨hagenda, q, d, o, hregs⟩ := State.access_busy (s := { s with agenda := rest }) hb ha
    obtain ⟨k, t, hk, hrun, hbusy, hdone, hcmd⟩ := run_completes rest _ (by rw [hregs]; exact hb) hagenda hrest
    refine ⟨k + 1, t, by simpa using hk, (run_succ_of_step (step_of_agenda_access h) k).trans hrun, hbusy, hdone, ?_⟩
    rw [hcmd, hregs]
    rfl
  | .hwReset :: rest, s, _, _, hreset => by
    cases (List.forall_mem_cons.1 hreset).1

/-- Settles O56, by induction on the agenda. -/
theorem completionAlwaysHappens : Obligations.CompletionAlwaysHappens :=
  fun s hb hreset => run_completes s.agenda s hb rfl hreset

/-! ### The command in progress, beside the flags of the host -/

/-- `Exec(state, CMD)` of R71 for the word in CMD. -/
def wordResult (r : Regs) : Result :=
  match decode r.cmd with
  | some i => result i r
  | none => .error .illegalCommand

theorem coreTurn_busy {s : State} (hb : s.busy = true) : coreTurn s = complete s (wordResult s.toRegs) := by
  unfold coreTurn execWord wordResult
  rw [if_pos hb]
  cases decode s.cmd with
  | some i => exact exec_eq_complete i s
  | none => rfl

/-- Two sequences that start alike and go on alike up to φ give results alike up to φ. -/
theorem bind_eq_map {α : Type} {φ : Regs → Regs} (m : Except Err α) {g k : α → Result} (h : ∀ a, g a = (k a).map φ) :
    (m >>= g) = (m >>= k).map φ := by
  cases m with
  | ok a => exact h a
  | error e => rfl

section
variable (q d o : Bool)

theorem fieldBinary_withFlags (g : W256 → W256 → W256) (rd rs1 rs2 : FReg) (r : Regs) :
    fieldBinary g rd rs1 rs2 (r.withFlags q d o) = (fieldBinary g rd rs1 rs2 r).map (·.withFlags q d o) :=
  bind_eq_map (r.fop rs1) fun _ => bind_eq_map (r.fop rs2) fun _ => rfl

/-- No command reads IRQEN, DONE or OVR, and none writes them before its completion. -/
theorem result_withFlags (i : Instr) (r : Regs) :
    result i (r.withFlags q d o) = (result i r).map (·.withFlags q d o) := by
  cases i with
  | fadd | fsub | fmul | mmul => exact fieldBinary_withFlags q d o _ _ _ _ r
  | finv rd rs1 =>
    refine bind_eq_map (r.fop rs1) fun x => ?_
    split <;> rfl
  | fsqrt rd rs1 =>
    refine bind_eq_map (r.fop rs1) fun x => ?_
    dsimp only
    split <;> rfl
  | fldc rd imm => exact bind_eq_map (constOf imm) fun _ => rfl
  | pmk rd rs1 rs2 =>
    refine bind_eq_map (r.fop rs1) fun x => bind_eq_map (r.fop rs2) fun y => ?_
    split <;> rfl
  | padd rd rs1 rs2 => exact bind_eq_map (affAdd (r.getP rs1) (r.getP rs2)) fun _ => rfl
  | pchkxy rs1 rs2 => exact bind_eq_map (r.fop rs1) fun _ => bind_eq_map (r.fop rs2) fun _ => rfl
  | pmul rd rs1 => exact bind_eq_map (sMul r.scalar (r.getP rs1)) fun _ => rfl
  | penc rs1 =>
    have hP : (r.withFlags q d o).getP rs1 = r.getP rs1 := rfl
    simp only [result, runPenc, hP]
    cases r.getP rs1 <;> rfl
  | pdec rd => exact bind_eq_map (decompress r.cbufLead r.cbufX) fun _ => rfl
  | nop | pldg | pneg | pdbl | pchk | peq | jld | jadd | jdbl | jtoa => rfl

theorem wordResult_withFlags (r : Regs) :
    wordResult (r.withFlags q d o) = (wordResult r).map (·.withFlags q d o) := by
  have hcmd : (r.withFlags q d o).cmd = r.cmd := rfl
  unfold wordResult
  rw [hcmd]
  cases decode r.cmd with
  | some i => exact result_withFlags q d o i r
  | none => rfl

end

/-- A run through host accesses without a reset comes to the rest of the agenda with the command in progress as it was. -/
theorem run_hostAccesses (rest : List Event) : ∀ (host : List Event) (s : State), s.busy = true →
    s.agenda = host ++ rest → (∀ e ∈ host, e.isAccess = true ∧ e.isReset = false) →
    ∃ t : State, (∀ k, Host.Core.run core (host.length + k) s = Host.Core.run core k t) ∧ t.agenda = rest ∧
      ∃ q d o, t.toRegs = s.toRegs.withFlags q d o
  | [], s, _, h, _ => ⟨s, fun k => by simp, h, s.irqen, s.done, s.ovr, rfl⟩
  | .access a :: host, s, hb, h, hhost => by
    obtain ⟨⟨-, ha⟩, hhost⟩ := List.forall_mem_cons.1 hhost
    obtain ⟨hagenda, q, d, o, hregs⟩ := State.access_busy (s := { s with agenda := host ++ rest }) hb ha
    obtain ⟨t, hrun, ht, q', d', o', htregs⟩ := run_hostAccesses rest host _ (by rw [hregs]; exact hb) hagenda hhost
    refine ⟨t, fun k => ?_, ht, q', d', o', by rw [htregs, hregs]; rfl⟩
    rw [List.length_cons, Nat.add_right_comm]
    exact (run_succ_of_step (step_of_agenda_access h) _).trans (hrun k)
  | .core :: _, _, _, _, hhost => by cases (List.forall_mem_cons.1 hhost).1.1
  | .hwReset :: _, _, _, _, hhost => by cases (List.forall_mem_cons.1 hhost).1.1

/-- Settles O55: the accesses change at most the flags, and the completion gives the same results beside any flags. -/
theorem busyHostCannotDisturbTheCommand : Obligations.BusyHostCannotDisturbTheCommand := by
  intro s host hb hhost h
  obtain ⟨t, hrun, ht, q, d, o, hregs⟩ := run_hostAccesses [.core] host s hb h hhost
  have htb : t.busy = true := by rw [hregs]; exact hb
  have hquiet : step { s with agenda := [] } = complete { s with agenda := [] } (wordResult s.toRegs) :=
    (step_of_agenda_nil rfl).trans (coreTurn_busy hb)
  have hturn : step t = complete { t with agenda := [] } ((wordResult s.toRegs).map (·.withFlags q d o)) := by
    rw [step_of_agenda_core ht, ← wordResult_withFlags, ← hregs]
    exact coreTurn_busy htb
  cases hr : wordResult s.toRegs with
  | ok r =>
    rw [hr] at hturn hquiet
    refine ⟨_, _, (hrun 1).trans (run_succ_of_step hturn 0), hquiet, ?_⟩
    simp [Regs.withFlags]
  | error e =>
    rw [hr] at hturn hquiet
    refine ⟨_, _, (hrun 1).trans (run_succ_of_step hturn 0), hquiet, ?_⟩
    simp [hregs, Regs.withFlags]

end Sys2Proof.Machine

/-! PROOFS. The command word (R90-R97): the encoder's words decode to their commands, the decoder accepts exactly the legal
words, and the core refuses the others. -/

namespace Sys2Proof

/-- The fields of `encode i` are what Table 30-2 puts there, and the decoder reads each back. -/
theorem decode_encode {i : Instr} (h : i.wellFormed = true) : decode (encode i) = some i := by
  cases i with
  | fldc rd imm =>
    simp [decode, decodeWord, encode, selField_legal h]
    rfl
  | _ =>
    simp [decode, decodeWord, encode]
    rfl

/-- Settles O1, by the round trip of each command's fields. -/
theorem decodeOfEncodeIsTheCommand : Obligations.DecodeOfEncodeIsTheCommand :=
  fun _ h => decode_encode h

/-! ### When each part of the decoder succeeds -/

@[simp] theorem unused_eq_ok_iff {x : BitVec 4} {u : Unit} : unused x = .ok u ↔ x = 0#4 :=
  ⟨eq_zero_of_unused, fun h => h ▸ unused_zero⟩

@[simp] theorem pField_eq_ok_iff {x : BitVec 4} {i : PReg} : pField x = .ok i ↔ x = idx i :=
  ⟨fun h => (idx_of_pField h).symm, fun h => h ▸ pField_idx i⟩

@[simp] theorem jField_eq_ok_iff {x : BitVec 4} {i : JReg} : jField x = .ok i ↔ x = idx i :=
  ⟨fun h => (idx_of_jField h).symm, fun h => h ▸ jField_idx i⟩

@[simp] theorem selField_eq_ok_iff {x : BitVec 4} {c : Selector} :
    selField x = .ok c ↔ x = c ∧ Selector.legal c = true := by
  refine ⟨fun h => ?_, by rintro ⟨rfl, hc⟩; exact selField_legal hc⟩
  unfold selField at h
  split at h <;> cases h
  exact ⟨rfl, ‹_›⟩

/-- A sequence of the decoder succeeds exactly if its first part and the rest do. -/
theorem bind_eq_ok_iff {α β : Type} {m : Except Reject α} {f : α → Except Reject β} {b : β} :
    (m >>= f) = .ok b ↔ ∃ a, m = .ok a ∧ f a = .ok b := by
  cases m with
  | ok a => exact ⟨fun h => ⟨a, rfl, h⟩, fun ⟨_, e, h⟩ => by cases e; exact h⟩
  | error e => exact ⟨fun h => (by cases h), fun ⟨_, e, _⟩ => by cases e⟩

theorem pure_eq_ok_iff {i j : Instr} : (pure i : Except Reject Instr) = .ok j ↔ j = i := by
  constructor <;> rintro ⟨⟩ <;> rfl

theorem throw_ne_ok {e : Reject} {j : Instr} : (throw e : Except Reject Instr) ≠ .ok j := nofun

/-- R93: a word with a reserved bit set decodes to nothing. -/
theorem decodeWord_of_rsv_ne {w : W32} (h : rsvOf w ≠ 0#8) : decodeWord w = .error .reservedBitsSet := by
  rw [decodeWord, if_pos h]
  rfl

theorem rsvOf_of_decodeWord {w : W32} {i : Instr} (h : decodeWord w = .ok i) : rsvOf w = 0#8 := by
  by_contra hne
  simp [decodeWord_of_rsv_ne hne] at h

/-- No bit of a word is lost by decoding it. -/
theorem encode_of_decodeWord {w : W32} {i : Instr} (h : decodeWord w = .ok i) :
    encode i = w ∧ i.wellFormed = true := by
  have hrsv := rsvOf_of_decodeWord h
  have hop : opOf w = BitVec.ofNat 8 (opOf w).toNat := by simp
  rw [← mkWord_fields w hrsv, hop]
  revert h
  simp only [decodeWord, hrsv, ne_eq, not_true_eq_false, if_false]
  split
  all_goals
    next hopcode =>
    simp +contextual [-bind_pure_comp, hopcode, bind_eq_ok_iff, pure_eq_ok_iff, throw_ne_ok,
      encode, idx_fField, Instr.wellFormed]

/-! ### Legality -/

@[simp] theorem Kind.f_admits (x : BitVec 4) : Kind.f.admits x = true := rfl
@[simp] theorem Kind.none_admits_iff {x : BitVec 4} : Kind.none.admits x = true ↔ x = 0#4 := decide_eq_true_iff
@[simp] theorem Kind.p_admits_iff {x : BitVec 4} : Kind.p.admits x = true ↔ ∃ i : PReg, x = idx i := by
  revert x; decide
@[simp] theorem Kind.j_admits_iff {x : BitVec 4} : Kind.j.admits x = true ↔ ∃ i : JReg, x = idx i := by
  revert x; decide

/-- R96: `Legal` is what the decoder accepts, opcode by opcode. -/
theorem legal_iff_decodeWord (w : W32) : Legal w = true ↔ ∃ i, decodeWord w = .ok i := by
  by_cases hrsv : rsvOf w = 0#8
  · simp only [decodeWord, hrsv, ne_eq, not_true_eq_false, if_false]
    split
    all_goals
      next hopcode =>
      simp [-bind_pure_comp, Legal, hrsv, hopcode, kinds, bind_eq_ok_iff, pure_eq_ok_iff, throw_ne_ok, Selector.legal,
        and_assoc, and_comm, and_left_comm]
  · simp [Legal, hrsv, decodeWord_of_rsv_ne]

theorem decode_eq_some_iff {w : W32} {i : Instr} : decode w = some i ↔ decodeWord w = .ok i := by
  unfold decode
  cases decodeWord w <;> simp [Except.toOption]

theorem isSome_decode (w : W32) : (decode w).isSome = Legal w := by
  rw [Bool.eq_iff_iff, Option.isSome_iff_exists, legal_iff_decodeWord]
  simp only [decode_eq_some_iff]

/-- R96: a word that is not legal decodes to nothing. -/
theorem decode_eq_none_of_not_legal {w : W32} (h : Legal w = false) : decode w = none := by
  rw [← Option.not_isSome_iff_eq_none, isSome_decode, h]
  decide

/-- Settles O2, by what the decoder's arm for each opcode accepts. -/
theorem decoderAcceptsExactlyTheLegalWords : Obligations.DecoderAcceptsExactlyTheLegalWords :=
  ⟨isSome_decode, fun _ _ h => encode_of_decodeWord (decode_eq_some_iff.1 h)⟩

/-- Settles O3, by computing the decoder on the thirteen words. -/
theorem specExampleWordsDecode : Obligations.SpecExampleWordsDecode := by
  unfold Obligations.SpecExampleWordsDecode
  decide

end Sys2Proof

namespace Sys2Proof.Machine

/-- R96: the core's turn on a command word that is not legal. -/
theorem coreTurn_of_not_legal {s : State} (hb : s.busy = true) (h : Legal s.cmd = false) :
    coreTurn s = .next (s.raiseErr .illegalCommand) := by
  rw [coreTurn_busy hb, wordResult, decode_eq_none_of_not_legal h]
  rfl

/-- Settles O4, by the core's turn on a word that does not decode. -/
theorem illegalWordsEndWithIllegalCommand : Obligations.IllegalWordsEndWithIllegalCommand :=
  fun _ hb hL => ⟨fun h => (step_of_agenda_nil h).trans (coreTurn_of_not_legal hb hL),
    fun _ h => (step_of_agenda_core h).trans (coreTurn_of_not_legal hb hL)⟩

end Sys2Proof.Machine

/-! PROOFS. The directives of the listings (R99): the host's writes of a whole register leave its value there. -/

namespace Sys2Proof.Machine

/-- A fold that gives slot after slot its final content leaves that content in the slots it has visited. -/
theorem get_foldl_of_slots {α β κ ι : Type} [DecidableEq κ] {get : α → ι → β} {set : α → κ → α} {slot : ι → κ}
    {content : ι → β} (h : ∀ x k j, get (set x k) j = if slot j = k then content j else get x j) (j : ι) :
    ∀ (ks : List κ) (x : α), get (ks.foldl set x) j = if slot j ∈ ks then content j else get x j
  | [], x => by simp
  | k :: ks, x => by
    rw [List.foldl_cons, get_foldl_of_slots h j ks, h]
    by_cases hk : slot j = k <;> simp [hk]

/-- The eight words of v, written in any value, make v (R21). -/
theorem foldl_setWord (v x : W256) : (List.finRange 8).foldl (fun y w => setWord y w (wordOf v w)) x = v := by
  refine eq_of_words fun w => ?_
  rw [get_foldl_of_slots (get := wordOf) (slot := id) (content := wordOf v) fun y k j => ?_]
  · exact if_pos (List.mem_finRange w)
  · by_cases hjk : j = k
    · simp [hjk]
    · simp [hjk, wordOf_setWord_ne]

/-- The nine host words of `buf`, written in any buffer, make `buf` (R35). -/
theorem foldl_setCbufWord (buf c : Vector Byte 33) :
    (List.finRange 9).foldl (fun d k => setCbufWord d k (cbufWord buf k)) c = buf := by
  refine Vector.ext fun b hb => ?_
  have h := get_foldl_of_slots (get := fun (d : Vector Byte 33) (j : Fin 33) => d[j.val])
    (set := fun d k => setCbufWord d k (cbufWord buf k)) (slot := fun j => (⟨j.val / 4, by omega⟩ : Fin 9))
    (content := fun j => buf[j.val]) ?_ ⟨b, hb⟩ (List.finRange 9) c
  · simpa using h
  · intro d k j
    have hbyte := extractLsb'_cbufWord buf k ⟨j.val % 4, by omega⟩
    simp only [getElem_setCbufWord, Fin.ext_iff, hbyte, cbufByte]
    by_cases hjk : j.val / 4 = k.val
    · simp [hjk, show 4 * k.val + j.val % 4 = j.val by omega]
    · simp [hjk]

/-! ### Runs of writes -/

/-- A run of writes that each take the register filled by `put` from x to `g x w` takes it through the fold of g. -/
theorem State.accesses_writes {α β : Type} {put : β → Option BusResult → State} {a : α → Access} {g : β → α → β}
    (h : ∀ x b w, (put x b).access (a w) = put (g x w) (some (.write false))) :
    ∀ {ws : List α}, ws ≠ [] → ∀ x b, (put x b).accesses (ws.map a) = put (ws.foldl g x) (some (.write false))
  | [w], _, x, b => h x b w
  | w :: w' :: ws, _, x, b => by
    rw [List.foldl_cons, ← State.accesses_writes h (List.cons_ne_nil w' ws) (g x w) (some (.write false)), ← h x b w]
    rfl

/-- s with v in F[i] and b as the outcome of the last access. -/
def State.putF (s : State) (i : Fin 16) (v : W256) (b : Option BusResult) : State :=
  { s with f := s.f.set i.val v, bus := b }

/-- s with v in KMAG and b as the outcome of the last access. -/
def State.putKmag (s : State) (v : W256) (b : Option BusResult) : State := { s with kmag := v, bus := b }

/-- s with `buf` in CBUF and b as the outcome of the last access. -/
def State.putCbuf (s : State) (buf : Vector Byte 33) (b : Option BusResult) : State := { s with cbuf := buf, bus := b }

section
variable {s : State} (hb : s.busy = false)
include hb

theorem State.access_putF (i : Fin 16) (x : W256) (b : Option BusResult) (w : Fin 8) (v : W32) :
    (s.putF i x b).access (hostWrite (fOffset i + BitVec.ofNat 12 (4 * w.val)) v) =
      s.putF i (setWord x w v) (some (.write false)) := by
  obtain ⟨h4, hl⟩ := locate_f i w
  rw [fOffset, ← BitVec.ofNat_add, State.access_hostWrite_at _ v h4 hl, State.writeLoc_f_idle (by exact hb)]
  simp [State.putF, Regs.setF, Regs.getF]

theorem State.access_putKmag (x : W256) (b : Option BusResult) (w : Fin 8) (v : W32) :
    (s.putKmag x b).access (hostWrite (kmagOffset + BitVec.ofNat 12 (4 * w.val)) v) =
      s.putKmag (setWord x w v) (some (.write false)) := by
  obtain ⟨h4, hl⟩ := locate_kmag w
  rw [kmagOffset, ← BitVec.ofNat_add, State.access_hostWrite_at _ v h4 hl, State.writeLoc_kmag_idle (by exact hb)]
  rfl

theorem State.access_putCbuf (d : Vector Byte 33) (b : Option BusResult) (k : Fin 9) (v : W32) :
    (s.putCbuf d b).access (hostWrite (cbufOffset + BitVec.ofNat 12 (4 * k.val)) v) =
      s.putCbuf (setCbufWord d k v) (some (.write false)) := by
  obtain ⟨h4, hl⟩ := locate_cbuf k
  rw [cbufOffset, ← BitVec.ofNat_add, State.access_hostWrite_at _ v h4 hl, State.writeLoc,
    State.interlocked_idle (by exact hb)]
  rfl

/-! ### The directives -/

theorem State.accesses_wr256_f (i : Fin 16) (v : W256) :
    s.accesses (wr256 (fOffset i) v) = s.putF i v (some (.write false)) := by
  have hs : s.putF i s.f[i.val] s.bus = s := by simp [State.putF]
  have h := State.accesses_writes (fun x b w => State.access_putF hb i x b w (wordOf v w))
    (List.finRange_eq_nil_iff.not.2 (by decide)) s.f[i.val] s.bus
  rwa [hs, foldl_setWord] at h

theorem State.accesses_wr256_kmag (v : W256) :
    s.accesses (wr256 kmagOffset v) = s.putKmag v (some (.write false)) := by
  have h := State.accesses_writes (fun x b w => State.access_putKmag hb x b w (wordOf v w))
    (List.finRange_eq_nil_iff.not.2 (by decide)) s.kmag s.bus
  rwa [foldl_setWord] at h

theorem State.accesses_wrcbuf (buf : Vector Byte 33) :
    s.accesses (wrcbuf buf) = s.putCbuf buf (some (.write false)) := by
  have h := State.accesses_writes (fun d b k => State.access_putCbuf hb d b k (cbufWord buf k))
    (List.finRange_eq_nil_iff.not.2 (by decide)) s.cbuf s.bus
  rwa [foldl_setCbufWord] at h

theorem State.accesses_wrk (k : Int) :
    s.accesses (wrk k) =
      { s with ksign := decide (k < 0), kmag := BitVec.ofNat 256 k.natAbs, bus := some (.write false) } := by
  have hsign : s.access (hostWrite ksignOffset (if k < 0 then 1#32 else 0#32)) =
      { s with ksign := decide (k < 0), bus := some (.write false) } := by
    rw [s.access_hostWrite_at (l := .ksign) _ (by decide) (by decide), State.writeLoc_ksign_idle hb]
    by_cases hk : k < 0 <;> simp [hk]
  rw [wrk, State.accesses, List.foldl_cons, hsign]
  exact State.accesses_wr256_kmag (by exact hb) _

end

/-- Settles O60, by the runs of writes each directive makes. -/
theorem hostDirectivesWriteWholeRegisters : Obligations.HostDirectivesWriteWholeRegisters := by
  intro s hb
  refine ⟨fun i v => State.accesses_wr256_f hb i v, fun v => State.accesses_wr256_kmag hb v, fun k hk => ?_,
    fun buf => State.accesses_wrcbuf hb buf⟩
  exact ⟨BitVec.ofNat 256 k.natAbs, by simpa using hk, State.accesses_wrk hb k⟩

end Sys2Proof.Machine

/-! PROOFS. The assembler reads what the disassembler writes (R99, R101). -/

namespace Sys2Proof.Machine

/-! ### Blanks -/

/-- Text with no blank at either end. -/
structure Solid (t : Text) : Prop where
  nonempty : t ≠ []
  head : isBlank (t.head nonempty) = false
  last : isBlank (t.getLast nonempty) = false

theorem Solid.of_forall {t : Text} (h0 : t ≠ []) (h : ∀ c ∈ t, isBlank c = false) : Solid t :=
  ⟨h0, h _ (List.head_mem h0), h _ (List.getLast_mem h0)⟩

/-- What stands between two solid texts does not matter. -/
theorem Solid.append {t v : Text} (ht : Solid t) (u : Text) (hv : Solid v) : Solid (t ++ (u ++ v)) := by
  have huv : u ++ v ≠ [] := List.append_ne_nil_of_right_ne_nil u hv.nonempty
  refine ⟨List.append_ne_nil_of_left_ne_nil ht.nonempty _, ?_, ?_⟩
  · rw [List.head_append_of_ne_nil ht.nonempty]
    exact ht.head
  · rw [List.getLast_append_of_ne_nil _ huv, List.getLast_append_of_ne_nil _ hv.nonempty]
    exact hv.last

theorem Solid.trim_eq {t : Text} (h : Solid t) : trim t = t := by
  have hhead : t.dropWhile isBlank = t := List.dropWhile_eq_self_iff.2 fun _ => by
    rw [← List.head_eq_getElem h.nonempty]
    simp [h.head]
  have hlast : t.rdropWhile isBlank = t := List.rdropWhile_eq_self_iff.2 fun _ => by simp [h.last]
  rw [trim, hhead]
  exact hlast

@[simp] theorem trim_space_cons (t : Text) : trim (' ' :: t) = trim t := rfl

/-! ### Commas -/

theorem splitCommas_ne_nil (t : Text) : splitCommas t ≠ [] := by
  cases t with
  | nil => exact List.cons_ne_nil _ _
  | cons c cs =>
    unfold splitCommas
    split
    · exact List.cons_ne_nil _ _
    · split <;> exact List.cons_ne_nil _ _

theorem splitCommas_comma_cons (t : Text) : splitCommas (',' :: t) = [] :: splitCommas t := by
  conv_lhs => unfold splitCommas
  split
  · next h => exact absurd h (splitCommas_ne_nil t)
  · next h => rw [h, if_pos rfl]

theorem splitCommas_cons_of_ne {c : Char} (h : c ≠ ',') (t : Text) :
    splitCommas (c :: t) = (splitCommas t).modifyHead (c :: ·) := by
  conv_lhs => unfold splitCommas
  split
  · next h => exact absurd h (splitCommas_ne_nil t)
  · next h' => rw [h', if_neg h, List.modifyHead_cons]

/-- Text without a comma goes to the first piece of what follows it. -/
theorem splitCommas_append (u : Text) : ∀ {t : Text}, (∀ c ∈ t, c ≠ ',') →
    splitCommas (t ++ u) = (splitCommas u).modifyHead (t ++ ·)
  | [], _ => by cases h : splitCommas u <;> simp [h]
  | c :: t, h => by
    obtain ⟨hc, ht⟩ := List.forall_mem_cons.1 h
    rw [List.cons_append, splitCommas_cons_of_ne hc, splitCommas_append u ht, List.modifyHead_modifyHead]
    rfl

/-! ### Lines -/

/-- An operand as the disassembler writes it: no blank, comma or semicolon. -/
def isToken (t : Text) : Bool := !t.isEmpty && t.all fun c => !isBlank c && c != ',' && c != ';'

theorem isToken_iff {t : Text} :
    isToken t = true ↔ t ≠ [] ∧ ∀ c ∈ t, isBlank c = false ∧ c ≠ ',' ∧ c ≠ ';' := by
  simp [isToken, and_assoc]

theorem not_blank_of_isToken {t : Text} (h : isToken t = true) : ∀ c ∈ t, isBlank c = false :=
  fun c hc => ((isToken_iff.1 h).2 c hc).1

theorem ne_comma_of_isToken {t : Text} (h : isToken t = true) : ∀ c ∈ t, c ≠ ',' :=
  fun c hc => ((isToken_iff.1 h).2 c hc).2.1

theorem ne_semicolon_of_isToken {t : Text} (h : isToken t = true) : ∀ c ∈ t, c ≠ ';' :=
  fun c hc => ((isToken_iff.1 h).2 c hc).2.2

theorem solid_of_isToken {t : Text} (h : isToken t = true) : Solid t :=
  .of_forall (isToken_iff.1 h).1 (not_blank_of_isToken h)

theorem solid_commaList : ∀ {ops : List Text}, ops ≠ [] → (∀ t ∈ ops, isToken t = true) → Solid (commaList ops)
  | [t], _, h => solid_of_isToken (h t (by simp))
  | t :: t' :: ts, _, h => by
    obtain ⟨ht, hts⟩ := List.forall_mem_cons.1 h
    have := (solid_of_isToken ht).append ", ".toList (solid_commaList (List.cons_ne_nil t' ts) hts)
    simpa [commaList] using this

/-- The operands of a line come back from it. -/
theorem map_trim_splitCommas_commaList : ∀ {ops : List Text}, ops ≠ [] → (∀ t ∈ ops, isToken t = true) →
    (splitCommas (commaList ops)).map trim = ops
  | [t], _, h => by
    have ht := h t (by simp)
    have hcomma := splitCommas_append [] (ne_comma_of_isToken ht)
    rw [List.append_nil] at hcomma
    simp [commaList, hcomma, splitCommas, (solid_of_isToken ht).trim_eq]
  | t :: t' :: ts, _, h => by
    obtain ⟨ht, hts⟩ := List.forall_mem_cons.1 h
    have ih := map_trim_splitCommas_commaList (List.cons_ne_nil t' ts) hts
    have hline : commaList (t :: t' :: ts) = t ++ ',' :: ' ' :: commaList (t' :: ts) := by simp [commaList]
    have htrim : ∀ l : List Text, (l.modifyHead (' ' :: ·)).map trim = l.map trim := fun l => by
      cases l <;> simp
    rw [hline, splitCommas_append _ (ne_comma_of_isToken ht), splitCommas_comma_cons,
      splitCommas_cons_of_ne (by decide), List.modifyHead_cons, List.append_nil, List.map_cons, htrim, ih,
      (solid_of_isToken ht).trim_eq]

theorem no_semicolon_commaList : ∀ {ops : List Text}, (∀ t ∈ ops, isToken t = true) → ∀ c ∈ commaList ops, c ≠ ';'
  | [], _, c, hc => by cases hc
  | [t], h, c, hc => ne_semicolon_of_isToken (h t (by simp)) c hc
  | t :: t' :: ts, h, c, hc => by
    obtain ⟨ht, hts⟩ := List.forall_mem_cons.1 h
    have hsep : ∀ c ∈ ", ".toList, c ≠ ';' := by simp
    rw [commaList, List.mem_append, List.mem_append] at hc
    · obtain (hc | hc) | hc := hc
      · exact ne_semicolon_of_isToken ht c hc
      · exact hsep c hc
      · exact no_semicolon_commaList hts c hc
    · nofun

/-! ### Reading a line -/

/-- A line with a solid body and no comment is its own body. -/
theorem trim_takeWhile_of_solid {t : Text} (hs : Solid t) (h : ∀ c ∈ t, c ≠ ';') :
    trim (t.takeWhile fun c => c != ';') = t := by
  rw [List.takeWhile_eq_self_iff.2 fun c hc => by simpa using h c hc, hs.trim_eq]

/-- The body of a line: its mnemonic, and the text from the first blank on. -/
theorem takeWhile_not_blank {m u : Text} (hm : ∀ c ∈ m, isBlank c = false) (hu : ∀ c ∈ u.head?, isBlank c = true) :
    (m ++ u).takeWhile (fun c => !isBlank c) = m ∧ (m ++ u).dropWhile (fun c => !isBlank c) = u := by
  have hm' : ∀ c ∈ m, (!isBlank c) = true := fun c hc => by simp [hm c hc]
  rw [List.takeWhile_append_of_pos hm', List.dropWhile_append_of_pos hm']
  cases u with
  | nil => simp
  | cons c u => simp [hu c (by simp)]

/-- The mnemonics are tokens in upper case. -/
theorem readers_upper : ∀ e ∈ readers, isToken e.1.toList = true ∧ e.1.toList.map Char.toUpper = e.1.toList := by
  decide

/-- The operands that the assembler reads after the mnemonic. -/
def operandsAfter (u : Text) : List Text := if trim u = [] then [] else (splitCommas (trim u)).map trim

section
variable {m : String} {read : List Text → Option (List Instr)}
  (hm : readers.find? (fun e => e.1.toList = m.toList) = some (m, read)) {i : Instr}
include hm

/-- What the assembler makes of a line without a comment: the reader of its mnemonic gets the operands. -/
theorem assemble_append {u : Text} (hbody : Solid (m.toList ++ u)) (hsemi : ∀ c ∈ u, c ≠ ';')
    (hu : ∀ c ∈ u.head?, isBlank c = true) (hread : read (operandsAfter u) = some [i]) :
    assemble (m.toList ++ u) = some [i] := by
  obtain ⟨htoken, hupper⟩ := readers_upper _ (List.mem_of_find?_eq_some hm)
  have hline : ∀ c ∈ m.toList ++ u, c ≠ ';' := fun c hc =>
    (List.mem_append.1 hc).elim (ne_semicolon_of_isToken htoken c) (hsemi c)
  obtain ⟨hpre, hpost⟩ := takeWhile_not_blank (not_blank_of_isToken htoken) hu
  rw [operandsAfter] at hread
  simp only [assemble, trim_takeWhile_of_solid hbody hline, hpre, hpost, hupper, hm, hread]

/-- The line that the disassembler writes is assembled from its mnemonic and its operands. -/
theorem assemble_lineText {ops : List Text} (hops : ∀ t ∈ ops, isToken t = true) (hread : read ops = some [i]) :
    assemble (lineText m ops) = some [i] := by
  have hsolid := solid_of_isToken (readers_upper _ (List.mem_of_find?_eq_some hm)).1
  cases ops with
  | nil =>
    have hline : lineText m [] = m.toList ++ [] := (List.append_nil _).symm
    rw [hline]
    exact assemble_append hm (by simpa using hsolid) nofun nofun hread
  | cons t ts =>
    have hne := List.cons_ne_nil t ts
    have hlist := solid_commaList hne hops
    have hoperands : operandsAfter (' ' :: commaList (t :: ts)) = t :: ts := by
      rw [operandsAfter, trim_space_cons, hlist.trim_eq, if_neg hlist.nonempty,
        map_trim_splitCommas_commaList hne hops]
    refine assemble_append hm (u := ' ' :: commaList (t :: ts)) (hsolid.append [' '] hlist) ?_ ?_ ?_
    · exact List.forall_mem_cons.2 ⟨by decide, no_semicolon_commaList hops⟩
    · simp [isBlank]
    · rw [hoperands, hread]

end

/-! ### Operands -/

@[simp] theorem isToken_regText_f (i : FReg) : isToken (regText 'f' i) = true := by revert i; decide
@[simp] theorem isToken_regText_p (i : PReg) : isToken (regText 'p' i) = true := by revert i; decide
@[simp] theorem isToken_regText_j (i : JReg) : isToken (regText 'j' i) = true := by revert i; decide
@[simp] theorem isToken_selText (c : Selector) : isToken (selText c) = true := by revert c; decide

@[simp] theorem readF_regText (i : FReg) : readF (regText 'f' i) = some i := by revert i; decide
@[simp] theorem readP_regText (i : PReg) : readP (regText 'p' i) = some i := by revert i; decide
@[simp] theorem readJ_regText (i : JReg) : readJ (regText 'j' i) = some i := by revert i; decide

theorem readSel_selText {c : Selector} (h : Selector.legal c = true) : readSel (selText c) = some c := by
  revert c; decide

/-! ### Commands -/

theorem assemble_asmText {i : Instr} (h : i.wellFormed = true) : assemble (asmText i) = some [i] := by
  cases i with
  | fldc rd imm =>
    rw [asmText]
    exact assemble_lineText rfl (by simp) (by simp [take2, readSel_selText h])
  | _ =>
    rw [asmText]
    exact assemble_lineText rfl (by simp) (by simp [take0, take1, take2, take3])

theorem disassemble_of_decode {w : W32} {i : Instr} (h : decode w = some i) : disassemble w = asmText i := by
  rw [disassemble, h]

theorem disassemble_of_not_legal {w : W32} (h : Legal w = false) : disassemble w = ".word 0x".toList ++ hex32 w := by
  rw [disassemble, decode_eq_none_of_not_legal h]

/-- The digits of a word are those of its number in base 16. -/
theorem hex32_eq (w : W32) :
    hex32 w = [7, 6, 5, 4, 3, 2, 1, 0].map fun k => hexDigit (w.toNat / 16 ^ k % 16) := by
  simp [hex32, BitVec.extractLsb'_toNat, Nat.shiftRight_eq_div_pow]

/-- Settles O59: the operands of the disassembly come back from the line, and each is read as the register or constant it
names. -/
theorem assemblerReadsTheDisassembly : Obligations.AssemblerReadsTheDisassembly := by
  refine ⟨fun w i h => ?_, fun w h => ?_⟩
  · rw [disassemble_of_decode h]
    exact assemble_asmText (encode_of_decodeWord (decode_eq_some_iff.1 h)).2
  · rw [disassemble_of_not_legal h, hex32_eq]
    rfl

end Sys2Proof.Machine

/-! PROOFS. The pseudo-instructions (R100): the commands of each expansion run one after another. -/

namespace Sys2Proof.Machine

/-! ### Running an expansion -/

/-- A host that issues command i from s comes to t, and the command has succeeded. -/
def RunsTo (i : Instr) (s t : State) : Prop := runCommand i s = .next t ∧ t.errcode = 0#4

theorem runCommand_eq_complete {i : Instr} (h : i.wellFormed = true) (s : State) :
    runCommand i s = complete (s.issue (encode i)) (result i (s.issue (encode i)).toRegs) := by
  rw [runCommand, execWord, decode_encode h]
  exact exec_eq_complete i _

theorem runsTo_succeed {i : Instr} (hi : i.wellFormed = true) {s : State} {r : Regs}
    (h : result i (s.issue (encode i)).toRegs = .ok r) : RunsTo i s ((s.issue (encode i)).succeed r) := by
  refine ⟨?_, rfl⟩
  rw [runCommand_eq_complete hi, h, complete_ok]

theorem runCommands_cons {i : Instr} {s t : State} (h : RunsTo i s t) (rest : List Instr) :
    runCommands (i :: rest) s = runCommands rest t := by
  obtain ⟨hrun, hcode⟩ := h
  rw [runCommands, hrun]
  exact if_pos hcode

/-- Two commands that succeed one after the other (R99). -/
theorem runCommands_pair {i j : Instr} {s t u : State} (h : RunsTo i s t) (h' : RunsTo j t u) :
    runCommands [i, j] s = .next u := by
  rw [runCommands_cons h, runCommands_cons h', runCommands]

theorem runCommands_single {i : Instr} {s t : State} (h : RunsTo i s t) : runCommands [i] s = .next t := by
  rw [runCommands_cons h, runCommands]

/-- R100: the host stops after a command that fails. -/
theorem runCommands_of_error {i : Instr} (hi : i.wellFormed = true) {s : State} {e : Err}
    (h : result i (s.issue (encode i)).toRegs = .error e) (he : e.code ≠ 0#4) (rest : List Instr) :
    runCommands (i :: rest) s = .next ((s.issue (encode i)).raiseErr e) := by
  rw [runCommands, runCommand_eq_complete hi, h, complete_error]
  exact if_neg he

/-! ### The commands of the expansions -/

/-- From s to t, F[d] gets v and the other F registers stay. -/
def SetsF (s t : State) (d : FReg) (v : W256) : Prop :=
  ∀ k, t.toRegs.getF k = if d = k then v else s.toRegs.getF k

/-- From s to t, P[d] gets A and the other P registers stay. -/
def SetsP (s t : State) (d : PReg) (A : Point) : Prop :=
  ∀ k, t.toRegs.getP k = if d = k then A else s.toRegs.getP k

theorem SetsF.same {s t : State} {d : FReg} {v : W256} (h : SetsF s t d v) : t.toRegs.getF d = v :=
  (h d).trans (if_pos rfl)

theorem SetsF.other {s t : State} {d k : FReg} {v : W256} (h : SetsF s t d v) (hk : d ≠ k) :
    t.toRegs.getF k = s.toRegs.getF k := (h k).trans (if_neg hk)

theorem SetsP.same {s t : State} {d : PReg} {A : Point} (h : SetsP s t d A) : t.toRegs.getP d = A :=
  (h d).trans (if_pos rfl)

theorem SetsP.other {s t : State} {d k : PReg} {A : Point} (h : SetsP s t d A) (hk : d ≠ k) :
    t.toRegs.getP k = s.toRegs.getP k := (h k).trans (if_neg hk)

theorem exists_runsTo_setF {i : Instr} (hi : i.wellFormed = true) {s : State} {d : FReg} {v : W256}
    (h : result i (s.issue (encode i)).toRegs = .ok ((s.issue (encode i)).toRegs.setF d v)) :
    ∃ t, RunsTo i s t ∧ SetsF s t d v :=
  ⟨_, runsTo_succeed hi h, fun k => by simp⟩

theorem exists_runsTo_setP {i : Instr} (hi : i.wellFormed = true) {s : State} {d : PReg} {A : Point}
    (h : result i (s.issue (encode i)).toRegs = .ok ((s.issue (encode i)).toRegs.setP d A)) :
    ∃ t, RunsTo i s t ∧ SetsP s t d A :=
  ⟨_, runsTo_succeed hi h, fun k => by simp⟩

/-- The result of FADD, FSUB, FMUL and MMUL on canonical operands (R110). -/
theorem fieldBinary_of_canonical (g : W256 → W256 → W256) (d : FReg) {a b : FReg} {r : Regs}
    (ha : canonical (r.getF a) = true) (hb : canonical (r.getF b) = true) :
    fieldBinary g d a b r = .ok (r.setF d (g (r.getF a) (r.getF b))) := by
  simp only [fieldBinary, Regs.fop_ok ha, Regs.fop_ok hb]
  rfl

theorem exists_runsTo_fieldBinary {i : Instr} (hi : i.wellFormed = true) {g : W256 → W256 → W256} {d a b : FReg}
    (hg : result i = fieldBinary g d a b) {s : State} {x y : W256} (ha : s.toRegs.getF a = x) (hb : s.toRegs.getF b = y)
    (hx : canonical x = true) (hy : canonical y = true) : ∃ t, RunsTo i s t ∧ SetsF s t d (g x y) := by
  subst ha hb
  exact exists_runsTo_setF hi (hg ▸ fieldBinary_of_canonical g d hx hy)

theorem exists_runsTo_fldc (s : State) (d : FReg) {c : Selector} {v : W256} (hc : Selector.legal c = true)
    (hv : constOf c = .ok v) : ∃ t, RunsTo (.fldc d c) s t ∧ SetsF s t d v :=
  exists_runsTo_setF (i := .fldc d c) hc (by simp only [result, runFldc, hv]; rfl)

/-- FINV of a canonical value other than 0 (R115). -/
theorem runFinv_of_ne_zero (d : FReg) {a : FReg} {r : Regs} (ha : canonical (r.getF a) = true) (h0 : r.getF a ≠ 0#256) :
    runFinv d a r = .ok (r.setF d (invP (r.getF a))) := by
  rw [runFinv, Regs.fop_ok ha]
  exact if_neg h0

/-- FINV of 0 (R115). -/
theorem runFinv_of_zero (d : FReg) {a : FReg} {r : Regs} (h0 : r.getF a = 0#256) :
    runFinv d a r = .error .noModularInverse := by
  rw [runFinv, Regs.fop_ok (h0 ▸ rfl), h0]
  rfl

theorem exists_runsTo_finv {s : State} (d : FReg) {a : FReg} (ha : canonical (s.toRegs.getF a) = true)
    (h0 : s.toRegs.getF a ≠ 0#256) : ∃ t, RunsTo (.finv d a) s t ∧ SetsF s t d (invP (s.toRegs.getF a)) :=
  exists_runsTo_setF rfl (runFinv_of_ne_zero d ha h0)

theorem exists_runsTo_pneg (s : State) (d a : PReg) :
    ∃ t, RunsTo (.pneg d a) s t ∧ SetsP s t d (affNeg (s.toRegs.getP a)) :=
  exists_runsTo_setP rfl rfl

theorem exists_runsTo_padd {s : State} (d : PReg) {a b : PReg} {R : Point}
    (h : affAdd (s.toRegs.getP a) (s.toRegs.getP b) = .ok R) : ∃ t, RunsTo (.padd d a b) s t ∧ SetsP s t d R :=
  exists_runsTo_setP rfl (by simp only [result, runPadd, State.getP_issue, h]; rfl)

/-- A constant in F[x], then a field command whose operands are u and w once it stands there (R100). -/
theorem exists_run_fldc_fieldBinary {i : Instr} (hi : i.wellFormed = true) {g : W256 → W256 → W256} {d a b x : FReg}
    (hg : result i = fieldBinary g d a b) {c : Selector} {v u w : W256} (hc : Selector.legal c = true)
    (hv : constOf c = .ok v) {s : State} (hops : ∀ t, SetsF s t x v → t.toRegs.getF a = u ∧ t.toRegs.getF b = w)
    (hu : canonical u = true) (hw : canonical w = true) :
    ∃ t, runCommands [.fldc x c, i] s = .next t ∧ t.errcode = 0#4 ∧ t.toRegs.getF d = g u w := by
  obtain ⟨t, hrun, hset⟩ := exists_runsTo_fldc s x hc hv
  obtain ⟨ha, hb⟩ := hops t hset
  obtain ⟨t', hrun', hset'⟩ := exists_runsTo_fieldBinary hi hg ha hb hu hw
  exact ⟨t', runCommands_pair hrun hrun', hrun'.2, hset'.same⟩

/-! ### Values modulo p -/

theorem toNat_modP_add (x y : W256) : (modP (ival x + ival y)).toNat = (x.toNat + y.toNat) % Config.p :=
  toNat_modP_natCast (x.toNat + y.toNat)

theorem toNat_modP_mul (x y : W256) : (modP (ival x * ival y)).toNat = x.toNat * y.toNat % Config.p :=
  toNat_modP_natCast (x.toNat * y.toNat)

theorem toNat_modP_zero_sub {x : W256} (hx : x.toNat < Config.p) :
    (modP (ival 0#256 - ival x)).toNat = (Config.p - x.toNat) % Config.p := by
  have h : ival 0#256 - ival x + Config.p = ((Config.p - x.toNat : Nat) : Int) := by
    rw [Nat.cast_sub hx.le]
    simp [ival, sub_eq_neg_add]
  rw [← toNat_modP_natCast, ← h, toNat_modP, toNat_modP, Int.add_emod_right]

theorem toNat_monPro (x y : W256) : (monPro x y).toNat = x.toNat * y.toNat * Config.rInv.toNat % Config.p :=
  toNat_modP_natCast (x.toNat * y.toNat * Config.rInv.toNat)

/-- R² · R⁻¹ = R modulo p (R5). -/
theorem toNat_monPro_r2ModP (x : W256) : (monPro x Config.r2ModP).toNat = x.toNat * 2 ^ 256 % Config.p := by
  have h : Config.r2ModP.toNat * Config.rInv.toNat ≡ 2 ^ 256 [MOD Config.p] := by decide
  rw [toNat_monPro, mul_assoc]
  exact h.mul_left x.toNat

/-- R⁻¹ · R = 1 modulo p (R5). -/
theorem toNat_monPro_one_mul (x : W256) (hx : x.toNat < Config.p) :
    (monPro x 1#256).toNat * 2 ^ 256 % Config.p = x.toNat := by
  have h : Config.rInv.toNat * 2 ^ 256 ≡ 1 [MOD Config.p] := by decide
  have hx1 : x.toNat * (1#256 : W256).toNat = x.toNat := by simp
  have hmod := h.mul_left x.toNat
  rw [Nat.ModEq, mul_one, Nat.mod_eq_of_lt hx] at hmod
  rw [toNat_monPro, hx1, Nat.mod_mul_mod, mul_assoc, hmod]

theorem toNat_mul_invP_mul {x y : W256} (hx : x.toNat < Config.p) (hy : y.toNat < Config.p) (h0 : y ≠ 0#256) :
    (modP (ival x * ival (invP y))).toNat * y.toNat % Config.p = x.toNat := by
  have := p_fact
  have h : (((modP (ival x * ival (invP y))).toNat * y.toNat : Nat) : ZMod Config.p) = x.toNat := by
    rw [Nat.cast_mul, cast_modP, Int.cast_mul, cast_ival, cast_ival, cast_invP h0 hy]
    exact inv_mul_cancel_right₀ (mt (cast_eq_zero_iff hy).1 h0) _
  rw [(ZMod.natCast_eq_natCast_iff' _ _ _).1 h, Nat.mod_eq_of_lt hx]

/-! ### Points -/

theorem fe_p_sub (y : W256) : fe (modP ((Config.p : Int) - ival y)) = -fe y := by simp

/-- -(-A) = A (R132). -/
theorem affNeg_affNeg {A : Point} (hA : A.valid = true) : affNeg (affNeg A) = A := by
  cases A with
  | inf => rfl
  | aff x y =>
    obtain ⟨-, hy, -⟩ := (Point.valid_aff_iff x y).1 hA
    have h : modP ((Config.p : Int) - ival (modP ((Config.p : Int) - ival y))) = y :=
      eq_of_cast_eq (modP_lt _) ((canonical_iff y).1 hy) (by change fe _ = fe _; rw [fe_p_sub, fe_p_sub, neg_neg])
    rw [affNeg, affNeg, h]

/-- A + (-A) = Inf (R133). -/
theorem affAdd_affNeg (A : Point) : affAdd A (affNeg A) = .ok .inf := by
  cases A with
  | inf => rfl
  | aff x y =>
    have h : modP (ival y + ival (modP ((Config.p : Int) - ival y))) = 0#256 := by
      rw [modP_eq_zero_iff]
      simp
    rw [affNeg, affAdd_aff, if_pos ⟨rfl, h⟩]

/-- The sum of two points of the curve is defined (R133): equal abscissas have equal or opposite ordinates. -/
theorem exists_affAdd {A B : Point} (hA : A.valid = true) (hB : B.valid = true) : ∃ R, affAdd A B = .ok R := by
  have := p_fact
  match A, B with
  | .inf, B => exact ⟨B, rfl⟩
  | .aff x y, .inf => exact ⟨.aff x y, rfl⟩
  | .aff x1 y1, .aff x2 y2 =>
    obtain ⟨hx1, hy1, hE1⟩ := (Point.valid_aff_iff x1 y1).1 hA
    obtain ⟨hx2, hy2, hE2⟩ := (Point.valid_aff_iff x2 y2).1 hB
    rw [affAdd_aff]
    split_ifs with hopp hsame hdx
    · exact ⟨_, rfl⟩
    · exact ⟨_, rfl⟩
    · exfalso
      have hx : x1 = x2 := by
        have : fe x2 - fe x1 = 0 := by simpa [modP_eq_zero_iff] using hdx
        exact eq_of_cast_eq ((canonical_iff _).1 hx1) ((canonical_iff _).1 hx2) (sub_eq_zero.1 this).symm
      subst hx
      obtain h | h := sq_eq_sq_iff_eq_or_eq_neg.1 (hE1.trans hE2.symm)
      · exact hsame ⟨rfl, eq_of_cast_eq ((canonical_iff _).1 hy1) ((canonical_iff _).1 hy2) h⟩
      · refine hopp ⟨rfl, (modP_eq_zero_iff _).2 ?_⟩
        simp [h]
    · exact ⟨_, rfl⟩

/-! ### The expansions -/

section
variable {s : State} {a : FReg} (ha : fNat s a < Config.p) (d : FReg)
include ha

theorem exists_run_fsqr : ∃ t, runCommands (Pseudo.expand (.fsqr d a)) s = .next t ∧ t.errcode = 0#4 ∧
    fNat t d = fNat s a * fNat s a % Config.p := by
  have hc := (canonical_iff _).2 ha
  obtain ⟨t, hrun, hset⟩ := exists_runsTo_fieldBinary (i := .fmul d a a) rfl rfl rfl rfl hc hc
  exact ⟨t, runCommands_single hrun, hrun.2, by rw [fNat, hset.same, toNat_modP_mul, fNat]⟩

theorem exists_run_fdbl : ∃ t, runCommands (Pseudo.expand (.fdbl d a)) s = .next t ∧ t.errcode = 0#4 ∧
    fNat t d = 2 * fNat s a % Config.p := by
  have hc := (canonical_iff _).2 ha
  obtain ⟨t, hrun, hset⟩ := exists_runsTo_fieldBinary (i := .fadd d a a) rfl rfl rfl rfl hc hc
  exact ⟨t, runCommands_single hrun, hrun.2, by rw [fNat, hset.same, toNat_modP_add, fNat, two_mul]⟩

variable {x : FReg} (hx : x ≠ a)
include hx

theorem exists_run_fmov : ∃ t, runCommands (Pseudo.expand (.fmov d a x)) s = .next t ∧ t.errcode = 0#4 ∧
    fNat t d = fNat s a := by
  obtain ⟨t, hrun, hcode, hd⟩ := exists_run_fldc_fieldBinary (i := .fadd d a x) (c := 0) rfl rfl rfl rfl
    (fun t ht => ⟨ht.other hx, ht.same⟩) ((canonical_iff _).2 ha) rfl
  refine ⟨t, hrun, hcode, ?_⟩
  rw [fNat, hd, toNat_modP_add]
  exact Nat.mod_eq_of_lt ha

theorem exists_run_fneg : ∃ t, runCommands (Pseudo.expand (.fneg d a x)) s = .next t ∧ t.errcode = 0#4 ∧
    fNat t d = (Config.p - fNat s a) % Config.p := by
  obtain ⟨t, hrun, hcode, hd⟩ := exists_run_fldc_fieldBinary (i := .fsub d x a) (c := 0) rfl rfl rfl rfl
    (fun t ht => ⟨ht.same, ht.other hx⟩) rfl ((canonical_iff _).2 ha)
  exact ⟨t, hrun, hcode, by rw [fNat, hd, toNat_modP_zero_sub ha, fNat]⟩

theorem exists_run_tomont : ∃ t, runCommands (Pseudo.expand (.tomont d a x)) s = .next t ∧ t.errcode = 0#4 ∧
    fNat t d = fNat s a * 2 ^ 256 % Config.p := by
  obtain ⟨t, hrun, hcode, hd⟩ := exists_run_fldc_fieldBinary (i := .mmul d a x) (c := 6) rfl rfl rfl rfl
    (fun t ht => ⟨ht.other hx, ht.same⟩) ((canonical_iff _).2 ha) (by decide)
  exact ⟨t, hrun, hcode, by rw [fNat, hd, toNat_monPro_r2ModP, fNat]⟩

theorem exists_run_frommont : ∃ t, runCommands (Pseudo.expand (.frommont d a x)) s = .next t ∧ t.errcode = 0#4 ∧
    fNat t d < Config.p ∧ fNat t d * 2 ^ 256 % Config.p = fNat s a := by
  obtain ⟨t, hrun, hcode, hd⟩ := exists_run_fldc_fieldBinary (i := .mmul d a x) (c := 1) rfl rfl rfl rfl
    (fun t ht => ⟨ht.other hx, ht.same⟩) ((canonical_iff _).2 ha) (by decide)
  refine ⟨t, hrun, hcode, ?_, ?_⟩ <;> rw [fNat, hd]
  · exact modP_lt _
  · exact toNat_monPro_one_mul _ ha

variable {b : FReg}

theorem exists_run_fdiv (hb : fNat s b < Config.p) (h0 : fNat s b ≠ 0) :
    ∃ t, runCommands (Pseudo.expand (.fdiv d a b x)) s = .next t ∧ t.errcode = 0#4 ∧
      fNat t d < Config.p ∧ fNat t d * fNat s b % Config.p = fNat s a := by
  have hb0 : s.toRegs.getF b ≠ 0#256 := fun h => h0 (by rw [fNat, h]; rfl)
  obtain ⟨t, hrun, hset⟩ := exists_runsTo_finv x ((canonical_iff _).2 hb) hb0
  obtain ⟨t', hrun', hset'⟩ := exists_runsTo_fieldBinary (i := .fmul d a x) rfl rfl (hset.other hx) hset.same
    ((canonical_iff _).2 ha) (canonical_invP hb0 hb)
  refine ⟨t', runCommands_pair hrun hrun', hrun'.2, ?_, ?_⟩ <;> rw [fNat, hset'.same]
  · exact modP_lt _
  · exact toNat_mul_invP_mul ha hb hb0

end

/-- FDIV by 0 ends with its first command. -/
theorem exists_run_fdiv_zero {s : State} {b : FReg} (h0 : fNat s b = 0) (d a x : FReg) :
    ∃ t, runCommands (Pseudo.expand (.fdiv d a b x)) s = .next t ∧ t.errcode = 2#4 :=
  ⟨_, runCommands_of_error (i := .finv x b) rfl (runFinv_of_zero x (BitVec.eq_of_toNat_eq h0)) (by decide) _, rfl⟩

theorem exists_run_pmov {s : State} {a : PReg} (ha : (s.toRegs.getP a).valid = true) (d : PReg) :
    ∃ t, runCommands (Pseudo.expand (.pmov d a)) s = .next t ∧ t.errcode = 0#4 ∧
      t.toRegs.getP d = s.toRegs.getP a := by
  obtain ⟨t, hrun, hset⟩ := exists_runsTo_pneg s d a
  obtain ⟨t', hrun', hset'⟩ := exists_runsTo_pneg t d d
  exact ⟨t', runCommands_pair hrun hrun', hrun'.2, by rw [hset'.same, hset.same, affNeg_affNeg ha]⟩

theorem exists_run_pinf {s : State} {d a : PReg} (hda : d ≠ a) :
    ∃ t, runCommands (Pseudo.expand (.pinf d a)) s = .next t ∧ t.errcode = 0#4 ∧ t.toRegs.getP d = .inf := by
  obtain ⟨t, hrun, hset⟩ := exists_runsTo_pneg s d a
  have hsum : affAdd (t.toRegs.getP a) (t.toRegs.getP d) = .ok .inf := by
    rw [hset.same, hset.other hda, affAdd_affNeg]
  obtain ⟨t', hrun', hset'⟩ := exists_runsTo_padd d hsum
  exact ⟨t', runCommands_pair hrun hrun', hrun'.2, hset'.same⟩

theorem exists_run_psub {s : State} {a b x : PReg} (ha : (s.toRegs.getP a).valid = true)
    (hb : (s.toRegs.getP b).valid = true) (hx : x ≠ a) (d : PReg) :
    ∃ t R, runCommands (Pseudo.expand (.psub d a b x)) s = .next t ∧ t.errcode = 0#4 ∧
      affAdd (s.toRegs.getP a) (affNeg (s.toRegs.getP b)) = .ok R ∧ t.toRegs.getP d = R := by
  obtain ⟨R, hR⟩ := exists_affAdd ha (affNeg_valid hb)
  obtain ⟨t, hrun, hset⟩ := exists_runsTo_pneg s x b
  have hsum : affAdd (t.toRegs.getP a) (t.toRegs.getP x) = .ok R := by rw [hset.same, hset.other hx, hR]
  obtain ⟨t', hrun', hset'⟩ := exists_runsTo_padd d hsum
  exact ⟨t', R, runCommands_pair hrun hrun', hrun'.2, hR, hset'.same⟩

/-- Settles O58, expansion by expansion. -/
theorem pseudoInstructionsGiveTheirResults : Obligations.PseudoInstructionsGiveTheirResults :=
  ⟨fun d _ _ ha => ⟨exists_run_fsqr ha d, exists_run_fdbl ha d⟩,
    fun d _ _ _ ha hx => ⟨exists_run_fmov ha d hx, exists_run_fneg ha d hx, exists_run_tomont ha d hx,
      exists_run_frommont ha d hx⟩,
    fun d a _ x _ ha hb hx => ⟨exists_run_fdiv ha d hx hb, fun h0 => exists_run_fdiv_zero h0 d a x⟩,
    fun d _ _ ha => ⟨exists_run_pmov ha d, fun hda => exists_run_pinf hda⟩,
    fun d _ _ _ _ ha hb hx => exists_run_psub ha hb hx d⟩

end Sys2Proof.Machine

/-! PROOFS. The field commands (R110-R117): what each puts into F[d], and the errors it ends with. -/

namespace Sys2Proof.Machine

/-! ### Words and completions -/

/-- A field of a word, from the word's number. -/
theorem extractLsb'_eq_ofNat {w : W32} {start len x : Nat} (h : w.toNat / 2 ^ start % 2 ^ len = x % 2 ^ len) :
    w.extractLsb' start len = BitVec.ofNat len x := by
  apply BitVec.eq_of_toNat_eq
  rw [BitVec.extractLsb'_toNat, Nat.shiftRight_eq_div_pow, h, BitVec.toNat_ofNat]

/-- R95: the sum of the fields at their places is the word made of them. -/
theorem ofNat_fields {op rd rs1 rs2 imm : Nat} (hop : op < 256) (hrd : rd < 16) (h1 : rs1 < 16) (h2 : rs2 < 16)
    (himm : imm < 16) :
    BitVec.ofNat 32 (rs2 * 2 ^ 16 + rs1 * 2 ^ 12 + rd * 2 ^ 8 + op + imm * 2 ^ 20) =
      mkWord (BitVec.ofNat 8 op) (BitVec.ofNat 4 rd) (BitVec.ofNat 4 rs1) (BitVec.ofNat 4 rs2) (BitVec.ofNat 4 imm) := by
  obtain ⟨w, hw⟩ : ∃ w, BitVec.ofNat 32 (rs2 * 2 ^ 16 + rs1 * 2 ^ 12 + rd * 2 ^ 8 + op + imm * 2 ^ 20) = w := ⟨_, rfl⟩
  have hn : w.toNat = rs2 * 2 ^ 16 + rs1 * 2 ^ 12 + rd * 2 ^ 8 + op + imm * 2 ^ 20 := by
    rw [← hw, BitVec.toNat_ofNat]
    omega
  have hrsv : rsvOf w = 0#8 := extractLsb'_eq_ofNat (by omega)
  have hopOf : opOf w = BitVec.ofNat 8 op := extractLsb'_eq_ofNat (by omega)
  have hrdOf : rdOf w = BitVec.ofNat 4 rd := extractLsb'_eq_ofNat (by omega)
  have hrs1Of : rs1Of w = BitVec.ofNat 4 rs1 := extractLsb'_eq_ofNat (by omega)
  have hrs2Of : rs2Of w = BitVec.ofNat 4 rs2 := extractLsb'_eq_ofNat (by omega)
  have himmOf : immOf w = BitVec.ofNat 4 imm := extractLsb'_eq_ofNat (by omega)
  rw [hw, ← mkWord_fields w hrsv, hopOf, hrdOf, hrs1Of, hrs2Of, himmOf]

/-- The word of a command is the sum of the fields that its encoder writes (R95). -/
theorem wordIs_of_encode {i : Instr} (hi : i.wellFormed = true) {op rd rs1 rs2 imm : Nat} (hop : op < 256)
    (hrd : rd < 16) (h1 : rs1 < 16) (h2 : rs2 < 16) (himm : imm < 16)
    (he : encode i = mkWord (BitVec.ofNat 8 op) (BitVec.ofNat 4 rd) (BitVec.ofNat 4 rs1) (BitVec.ofNat 4 rs2)
      (BitVec.ofNat 4 imm)) : wordIs i op rd rs1 rs2 imm := by
  rw [wordIs, ofNat_fields hop hrd h1 h2 himm, ← he]
  exact ⟨rfl, decode_encode hi⟩

theorem succeedsWith_of_result {i : Instr} {s : State} {r : Regs} (h : result i s.toRegs = .ok r) :
    succeedsWith i s r := by
  rw [succeedsWith, exec_eq_complete, h]
  rfl

theorem failsWith_of_result {i : Instr} {s : State} {e : Err} (h : result i s.toRegs = .error e) :
    failsWith i s e.code := by
  rw [failsWith, exec_eq_complete, h]
  rfl

/-! ### Operands (R110) -/

theorem fop_of_fNat_lt {s : State} {i : FReg} (h : fNat s i < Config.p) :
    s.toRegs.fop i = .ok (s.toRegs.getF i) :=
  Regs.fop_ok ((canonical_iff _).2 h)

theorem fop_of_le_fNat {s : State} {i : FReg} (h : Config.p ≤ fNat s i) : s.toRegs.fop i = .error .notCanonical := by
  refine Regs.fop_error (Bool.eq_false_iff.2 fun hc => ?_)
  exact Nat.not_lt.2 h ((canonical_iff _).1 hc)

/-! ### FADD, FSUB, FMUL and MMUL -/

section
variable {i : Instr} {g : W256 → W256 → W256} {d a b : FReg} (hg : result i = fieldBinary g d a b) {s : State}
include hg

theorem succeedsWith_fieldBinary (ha : fNat s a < Config.p) (hb : fNat s b < Config.p) :
    succeedsWith i s { s.toRegs with f := s.f.set d.val (g (s.toRegs.getF a) (s.toRegs.getF b)) } :=
  succeedsWith_of_result (hg ▸ fieldBinary_of_canonical g d ((canonical_iff _).2 ha) ((canonical_iff _).2 hb))

/-- R110: an operand that is not canonical, the first or the second. -/
theorem failsWith_fieldBinary (h : Config.p ≤ fNat s a ∨ Config.p ≤ fNat s b) : failsWith i s 6#4 := by
  refine failsWith_of_result (e := .notCanonical) ?_
  rw [hg, fieldBinary]
  obtain ha | ha := Nat.lt_or_ge (fNat s a) Config.p
  · rw [fop_of_fNat_lt ha, fop_of_le_fNat (h.resolve_left (Nat.not_le.2 ha))]
    rfl
  · rw [fop_of_le_fNat ha]
    rfl

end

/-- A number that stands for a canonical value in Z/p has that value as its residue. -/
theorem mod_p_eq_of_cast_eq {n : Nat} {x : W256} (hx : x.toNat < Config.p) (h : (n : ZMod Config.p) = fe x) :
    n % Config.p = x.toNat := by
  rw [(ZMod.natCast_eq_natCast_iff' _ _ _).1 h, Nat.mod_eq_of_lt hx]

/-- (x - y) + y = x modulo p (R112). -/
theorem toNat_modP_sub_add {x : W256} (hx : x.toNat < Config.p) (y : W256) :
    ((modP (ival x - ival y)).toNat + y.toNat) % Config.p = x.toNat := by
  refine mod_p_eq_of_cast_eq hx ?_
  rw [Nat.cast_add, cast_modP, Int.cast_sub, cast_ival_eq_fe, cast_ival_eq_fe]
  exact sub_add_cancel (fe x) (fe y)

/-- The Montgomery product times R is the product modulo p (R5, R114). -/
theorem toNat_monPro_mul (x y : W256) :
    (monPro x y).toNat * 2 ^ 256 % Config.p = x.toNat * y.toNat % Config.p := by
  have h : Config.rInv.toNat * 2 ^ 256 ≡ 1 [MOD Config.p] := by decide
  rw [toNat_monPro, Nat.mod_mul_mod, mul_assoc (x.toNat * y.toNat)]
  simpa only [Nat.ModEq, mul_one] using h.mul_left (x.toNat * y.toNat)

/-- Settles O13, by the value of the reduced sum. -/
theorem faddAddsModuloP : Obligations.FaddAddsModuloP :=
  fun d a b s => ⟨wordIs_of_encode rfl (by decide) d.isLt a.isLt b.isLt (by decide) rfl,
    fun ha hb => ⟨_, toNat_modP_add _ _, succeedsWith_fieldBinary (i := .fadd d a b) rfl ha hb⟩,
    failsWith_fieldBinary (i := .fadd d a b) rfl⟩

/-- Settles O14: the reduced difference and y add up to x. -/
theorem fsubSubtractsModuloP : Obligations.FsubSubtractsModuloP :=
  fun d a b s => ⟨wordIs_of_encode rfl (by decide) d.isLt a.isLt b.isLt (by decide) rfl,
    fun ha hb => ⟨_, modP_lt _, toNat_modP_sub_add ha _, succeedsWith_fieldBinary (i := .fsub d a b) rfl ha hb⟩,
    failsWith_fieldBinary (i := .fsub d a b) rfl⟩

/-- Settles O15, by the value of the reduced product. -/
theorem fmulMultipliesModuloP : Obligations.FmulMultipliesModuloP :=
  fun d a b s => ⟨wordIs_of_encode rfl (by decide) d.isLt a.isLt b.isLt (by decide) rfl,
    fun ha hb => ⟨_, toNat_modP_mul _ _, succeedsWith_fieldBinary (i := .fmul d a b) rfl ha hb⟩,
    failsWith_fieldBinary (i := .fmul d a b) rfl⟩

/-- Settles O16, because R⁻¹ · R = 1 modulo p. -/
theorem mmulIsTheMontgomeryProduct : Obligations.MmulIsTheMontgomeryProduct :=
  fun d a b s => ⟨wordIs_of_encode rfl (by decide) d.isLt a.isLt b.isLt (by decide) rfl,
    fun ha hb => ⟨_, modP_lt _, toNat_monPro_mul _ _, succeedsWith_fieldBinary (i := .mmul d a b) rfl ha hb⟩,
    failsWith_fieldBinary (i := .mmul d a b) rfl⟩

/-! ### FINV -/

theorem runFinv_of_not_canonical (d : FReg) {a : FReg} {s : State} (ha : Config.p ≤ fNat s a) :
    runFinv d a s.toRegs = .error .notCanonical := by
  rw [runFinv, fop_of_le_fNat ha]
  rfl

/-- x · inv_p(x) = 1 modulo p (R7). -/
theorem toNat_mul_invP {x : W256} (hx : x.toNat < Config.p) (h0 : x ≠ 0#256) :
    x.toNat * (invP x).toNat % Config.p = 1 := by
  have := p_fact
  have hc := (canonical_iff x).2 hx
  refine mod_p_eq_of_cast_eq (x := 1#256) (by decide) ?_
  rw [Nat.cast_mul, fe_one]
  calc fe x * fe (invP x) = fe x * (fe x)⁻¹ := by rw [fe_invP hc h0]
    _ = 1 := mul_inv_cancel₀ (fe_ne_zero hc h0)

/-- A value other than 0 has one inverse modulo p at most: it is coprime to the prime p. -/
theorem eq_of_mul_mod_p_eq_one {x y z : Nat} (hx : x < Config.p) (h0 : x ≠ 0) (hy : y < Config.p) (hz : z < Config.p)
    (hxy : x * y % Config.p = 1) (hxz : x * z % Config.p = 1) : y = z := by
  have hmod : x * y ≡ x * z [MOD Config.p] := hxy.trans hxz.symm
  exact (hmod.cancel_left_of_coprime (Nat.coprime_of_lt_prime h0 hx p_prime)).eq_of_lt_of_lt hy hz

/-- Settles O17: `invP` is an inverse, and there is no other. -/
theorem finvIsTheModularInverse : Obligations.FinvIsTheModularInverse := by
  intro d a s
  refine ⟨wordIs_of_encode rfl (by decide) d.isLt a.isLt (by decide) (by decide) rfl, fun ha h0 => ?_, fun h0 => ?_,
    fun ha => ?_⟩
  · have hc := (canonical_iff _).2 ha
    have hx0 : s.toRegs.getF a ≠ 0#256 := fun h => h0 (by rw [fNat, h]; rfl)
    have hv := (canonical_iff _).1 (canonical_invP hx0 ha)
    have hone := toNat_mul_invP ha hx0
    exact ⟨_, hv, hone, fun y hy hxy => eq_of_mul_mod_p_eq_one ha h0 hy hv hxy hone,
      succeedsWith_of_result (i := .finv d a) (runFinv_of_ne_zero d hc hx0)⟩
  · have hx0 : s.toRegs.getF a = 0#256 := BitVec.eq_of_toNat_eq h0
    exact failsWith_of_result (i := .finv d a) (runFinv_of_zero d hx0)
  · exact failsWith_of_result (i := .finv d a) (runFinv_of_not_canonical d ha)

/-! ### FSQRT -/

theorem isRootOf_iff (c x : W256) : isRootOf c x = true ↔ c.toNat * c.toNat % Config.p = x.toNat := by
  rw [isRootOf, decide_eq_true_iff, ← BitVec.toNat_inj, toNat_modP_mul]

theorem fe_sqrtCandidate (x : W256) : fe (sqrtCandidate x) = fe x ^ ((Config.p + 1) / 4) :=
  cast_powP x _ (by decide)

/-- The candidate of R116 is a root of every square: for x = y², its square is y^(p+1) = y² (p ≡ 3 modulo 4). -/
theorem isRootOf_sqrtCandidate {x : W256} (hx : x.toNat < Config.p) {y : Nat} (hy : y * y % Config.p = x.toNat) :
    isRootOf (sqrtCandidate x) x = true := by
  have := p_fact
  have hyx : fe x = (y : ZMod Config.p) ^ 2 := by rw [fe, ← hy, ZMod.natCast_mod, Nat.cast_mul, pow_two]
  refine (isRootOf_iff _ _).2 (mod_p_eq_of_cast_eq hx ?_)
  calc ((sqrtCandidate x).toNat * (sqrtCandidate x).toNat : Nat)
      = fe (sqrtCandidate x) ^ 2 := by rw [Nat.cast_mul, pow_two, fe]
    _ = (y : ZMod Config.p) ^ (Config.p + 1) := by
      rw [fe_sqrtCandidate, hyx, ← pow_mul, ← pow_mul, show 2 * ((Config.p + 1) / 4 * 2) = Config.p + 1 by decide]
    _ = fe x := by rw [pow_succ, ZMod.pow_card, hyx, pow_two]

section
variable (d : FReg) {a : FReg} {s : State}

theorem runFsqrt_of_isRootOf (ha : fNat s a < Config.p)
    (h : isRootOf (sqrtCandidate (s.toRegs.getF a)) (s.toRegs.getF a) = true) :
    runFsqrt d a s.toRegs = .ok ((s.toRegs.setF d (sqrtCandidate (s.toRegs.getF a))).setBool true) := by
  rw [runFsqrt, fop_of_fNat_lt ha]
  exact if_pos h

theorem runFsqrt_of_not_isRootOf (ha : fNat s a < Config.p)
    (h : ¬ isRootOf (sqrtCandidate (s.toRegs.getF a)) (s.toRegs.getF a) = true) :
    runFsqrt d a s.toRegs = .ok (s.toRegs.setBool false) := by
  rw [runFsqrt, fop_of_fNat_lt ha]
  exact if_neg h

theorem runFsqrt_of_not_canonical (ha : Config.p ≤ fNat s a) : runFsqrt d a s.toRegs = .error .notCanonical := by
  rw [runFsqrt, fop_of_le_fNat ha]
  rfl

end

/-- Settles O18: the candidate is a root exactly if there is one. -/
theorem fsqrtFindsTheRootOrClearsBool : Obligations.FsqrtFindsTheRootOrClearsBool := by
  intro d a s
  refine ⟨wordIs_of_encode rfl (by decide) d.isLt a.isLt (by decide) (by decide) rfl, ?_, fun ha hno => ?_, fun ha => ?_⟩
  · rintro ha ⟨y, hy⟩
    have hroot := isRootOf_sqrtCandidate ha hy
    exact ⟨_, (canonical_iff _).1 (canonical_sqrtCandidate _), fe_sqrtCandidate _, (isRootOf_iff _ _).1 hroot,
      succeedsWith_of_result (i := .fsqrt d a) (runFsqrt_of_isRootOf d ha hroot)⟩
  · have hnot := fun h => hno ⟨_, (isRootOf_iff (sqrtCandidate (s.toRegs.getF a)) _).1 h⟩
    exact succeedsWith_of_result (i := .fsqrt d a) (runFsqrt_of_not_isRootOf d ha hnot)
  · exact failsWith_of_result (i := .fsqrt d a) (runFsqrt_of_not_canonical d ha)

/-! ### FLDC -/

theorem constOf_of_reserved {c : Selector} (hc : 7 ≤ c.toNat) : constOf c = .error .illegalCommand := by
  revert c
  decide

theorem wordIs_fldc (d : FReg) {c : Selector} (hc : c.toNat ≤ 6) : wordIs (.fldc d c) 0x16 d 0 0 c.toNat :=
  wordIs_of_encode (i := .fldc d c) (decide_eq_true hc) (by decide) d.isLt (by decide) (by decide) c.isLt
    (by rw [BitVec.ofNat_toNat]; rfl)

theorem succeedsWith_fldc (d : FReg) (s : State) {c : Selector} {v : W256} (hv : constOf c = .ok v) :
    succeedsWith (.fldc d c) s { s.toRegs with f := s.f.set d.val v } := by
  refine succeedsWith_of_result ?_
  rw [result, runFldc, hv]
  rfl

theorem failsWith_fldc (d : FReg) (s : State) {c : Selector} (hc : 7 ≤ c.toNat) : failsWith (.fldc d c) s 7#4 := by
  refine failsWith_of_result (e := .illegalCommand) ?_
  rw [result, runFldc, constOf_of_reserved hc]
  rfl

/-- Settles O19, selector by selector. -/
theorem fldcLoadsTheSelectedConstant : Obligations.FldcLoadsTheSelectedConstant :=
  fun d s => ⟨fun _ hc => wordIs_fldc d hc, succeedsWith_fldc d s rfl, succeedsWith_fldc d s rfl,
    succeedsWith_fldc d s rfl, succeedsWith_fldc d s rfl, succeedsWith_fldc d s rfl, succeedsWith_fldc d s rfl,
    succeedsWith_fldc d s rfl, fun _ hc => failsWith_fldc d s hc⟩

end Sys2Proof.Machine

/-! PROOFS. The affine point commands (R130-R138): what each puts into P[d] or BOOL, and the errors it ends with. -/

namespace Sys2Proof.Machine

/-! ### Operands and membership -/

theorem onCurve_iff_onE (x y : W256) : onCurve x y = true ↔ onE x y :=
  (onCurve_iff_fe x y).trans (onE_iff x y).symm

theorem Point.isOnCurve_of_valid {A : Point} (hA : A.valid = true) : A.isOnCurve = true := by
  cases A with
  | inf => rfl
  | aff x y => exact (Bool.and_eq_true_iff.1 hA).2

section
variable {s : State} {a b : FReg} (k : W256 → W256 → Result)

theorem fop_bind_fop_of_lt (ha : fNat s a < Config.p) (hb : fNat s b < Config.p) :
    (do let x ← s.toRegs.fop a; let y ← s.toRegs.fop b; k x y) = k (s.toRegs.getF a) (s.toRegs.getF b) := by
  rw [fop_of_fNat_lt ha, fop_of_fNat_lt hb]
  rfl

/-- R110: an operand that is not canonical, the first or the second. -/
theorem fop_bind_fop_of_le (h : Config.p ≤ fNat s a ∨ Config.p ≤ fNat s b) :
    (do let x ← s.toRegs.fop a; let y ← s.toRegs.fop b; k x y) = .error .notCanonical := by
  obtain ha | ha := Nat.lt_or_ge (fNat s a) Config.p
  · rw [fop_of_fNat_lt ha, fop_of_le_fNat (h.resolve_left (Nat.not_le.2 ha))]
    rfl
  · rw [fop_of_le_fNat ha]
    rfl

end

/-! ### The group law in Z/p (R133, R134) -/

theorem eq_of_fe_eq {x y : W256} (hx : canonical x = true) (hy : canonical y = true) (h : fe x = fe y) : x = y :=
  eq_of_cast_eq ((canonical_iff x).1 hx) ((canonical_iff y).1 hy) h

/-- The point that a slope gives is fixed by its coordinates in Z/p. -/
theorem eq_chord_iff (l x1 y1 x2 : W256) (R : Point) :
    R = chord l x1 y1 x2 ↔ ∃ xr yr : W256, R = .aff xr yr ∧ canonical xr = true ∧ canonical yr = true ∧
      fe xr = fe l ^ 2 - fe x1 - fe x2 ∧ fe yr = fe l * (fe x1 - fe xr) - fe y1 := by
  have hx : fe (modP (ival l * ival l - ival x1 - ival x2)) = fe l ^ 2 - fe x1 - fe x2 := by simp [pow_two]
  have hy (xr : W256) : fe (modP (ival l * (ival x1 - ival xr) - ival y1)) = fe l * (fe x1 - fe xr) - fe y1 := by simp
  constructor
  · rintro rfl
    exact ⟨_, _, rfl, canonical_modP _, canonical_modP _, hx, hy _⟩
  · rintro ⟨xr, yr, rfl, hxr, hyr, hX, hY⟩
    obtain rfl := eq_of_fe_eq hxr (canonical_modP _) (hX.trans hx.symm)
    exact congrArg (Point.aff _) (eq_of_fe_eq hyr (canonical_modP _) (hY.trans (hy _).symm))

/-- AffDbl is the tangent rule (R134). -/
theorem doubleOf_iff {A R : Point} (hy : ∀ x y, A = .aff x y → y.toNat < Config.p) : DoubleOf A R ↔ affDbl A = R := by
  cases A with
  | inf => exact eq_comm
  | aff x y =>
    rw [affDbl_aff, DoubleOf]
    split_ifs with h0
    · exact eq_comm
    · rw [eq_comm, eq_chord_iff, fe_tangentSlope ((canonical_iff y).2 (hy x y rfl)) h0, two_mul (fe x)]
      simp only [sub_sub]

/-- AffAdd of two affine pairs, its conditions read in Z/p (R133). -/
theorem affAdd_aff_eq (x1 y1 x2 y2 : W256) :
    affAdd (.aff x1 y1) (.aff x2 y2) =
      if x1 = x2 ∧ (y1.toNat + y2.toNat) % Config.p = 0 then .ok .inf
      else if x1 = x2 ∧ y1 = y2 then .ok (affDbl (.aff x1 y1))
      else if fe x2 - fe x1 = 0 then .error .noModularInverse
      else .ok (chord (secantSlope y1 y2 (modP (ival x2 - ival x1))) x1 y1 x2) := by
  have hy : modP (ival y1 + ival y2) = 0#256 ↔ (y1.toNat + y2.toNat) % Config.p = 0 := by
    rw [← toNat_modP_add, ← BitVec.toNat_inj, BitVec.toNat_zero]
  have hx : modP (ival x2 - ival x1) = 0#256 ↔ fe x2 - fe x1 = 0 := by simp [modP_eq_zero_iff]
  simp only [affAdd_aff, hy, hx]

/-- AffAdd is the sum of R133 where there is one. -/
theorem sumOf_some_iff {A B R : Point} (hy : ∀ x y, A = .aff x y → y.toNat < Config.p) :
    SumOf A B (some R) ↔ affAdd A B = .ok R := by
  match A, B with
  | .inf, B => simp [SumOf, eq_comm]
  | .aff x1 y1, .inf => simp [SumOf, eq_comm]
  | .aff x1 y1, .aff x2 y2 =>
    rw [affAdd_aff_eq, SumOf]
    split_ifs with hopp hsame hdx
    · simp [eq_comm]
    · simp [doubleOf_iff hy]
    · simp
    · have h0 : modP (ival x2 - ival x1) ≠ 0#256 := by simpa [modP_eq_zero_iff] using hdx
      simp only [Option.some.injEq, Except.ok.injEq]
      rw [eq_comm (b := R), eq_chord_iff, fe_secantSlope y1 y2 h0]

/-- AffAdd ends with NO_MODULAR_INVERSE where R133 has no sum. -/
theorem affAdd_of_sumOf_none {A B : Point} (h : SumOf A B none) : affAdd A B = .error .noModularInverse := by
  match A, B with
  | .inf, B => cases h
  | .aff x1 y1, .inf => cases h
  | .aff x1 y1, .aff x2 y2 =>
    rw [affAdd_aff_eq]
    rw [SumOf] at h
    split_ifs at h ⊢ with hopp hsame hdx
    · obtain ⟨R, hR, -⟩ := h
      cases hR
    · rfl
    · obtain ⟨xr, yr, hR, -⟩ := h
      cases hR

theorem canonicalY_of_valid {A : Point} (hA : A.valid = true) (x y : W256) (h : A = .aff x y) : y.toNat < Config.p := by
  subst h
  obtain ⟨-, hy, -⟩ := (Point.valid_aff_iff x y).1 hA
  exact (canonical_iff y).1 hy

/-! ### The commands -/

/-- Settles O20: the generator's coordinates are the literals of R3. -/
theorem pldgLoadsTheGenerator : Obligations.PldgLoadsTheGenerator :=
  fun d s => ⟨wordIs_of_encode rfl (by decide) (by omega) (by decide) (by decide) (by decide) rfl,
    Config.gx, Config.gy, rfl, rfl, succeedsWith_of_result (i := .pldg d) rfl⟩

/-- Settles O21: the operands are checked, then their membership. -/
theorem pmkBuildsOnlyCurvePoints : Obligations.PmkBuildsOnlyCurvePoints := by
  intro d a b s
  refine ⟨wordIs_of_encode rfl (by decide) (by omega) a.isLt b.isLt (by decide) rfl, fun ha hb hE => ?_,
    fun ha hb hE => ?_, fun h => ?_⟩
  · exact succeedsWith_of_result (i := .pmk d a b)
      ((fop_bind_fop_of_lt _ ha hb).trans (if_pos ((onCurve_iff_onE _ _).2 hE)))
  · exact failsWith_of_result (i := .pmk d a b) (e := .invalidPoint)
      ((fop_bind_fop_of_lt _ ha hb).trans (if_neg (mt (onCurve_iff_onE _ _).1 hE)))
  · exact failsWith_of_result (i := .pmk d a b) (e := .notCanonical) (fop_bind_fop_of_le _ h)

theorem succeedsWith_pneg (d : PReg) {a : PReg} {s : State} {R : Point} (h : affNeg (s.toRegs.getP a) = R) :
    succeedsWith (.pneg d a) s { s.toRegs with p := s.p.set d.val R } := by
  subst h
  exact succeedsWith_of_result (i := .pneg d a) rfl

/-- Settles O22, by the value of the reduced p - y. -/
theorem pnegNegatesThePoint : Obligations.PnegNegatesThePoint := by
  intro d a s
  refine ⟨wordIs_of_encode rfl (by decide) (by omega) (by omega) (by decide) (by decide) rfl,
    fun hA => succeedsWith_pneg d (congrArg affNeg hA),
    fun x y hA => ⟨modP ((Config.p : Int) - ival y), ?_, succeedsWith_pneg d (congrArg affNeg hA)⟩⟩
  rw [toNat_modP, Int.toNat_of_nonneg (emod_p_nonneg _), ival]

theorem runPadd_of_affAdd {d a b : PReg} {r : Regs} {out : Except Err Point} (h : affAdd (r.getP a) (r.getP b) = out) :
    runPadd d a b r = out.map (r.setP d) := by
  rw [runPadd, h]
  cases out <;> rfl

/-- Settles O23: AffAdd is the sum of R133, and two points of the curve have one. -/
theorem paddIsTheGroupLaw : Obligations.PaddIsTheGroupLaw := by
  intro d a b s
  have hok : ∀ {R}, affAdd (s.toRegs.getP a) (s.toRegs.getP b) = .ok R →
      succeedsWith (.padd d a b) s { s.toRegs with p := s.p.set d.val R } :=
    fun h => succeedsWith_of_result (i := .padd d a b) (runPadd_of_affAdd h)
  refine ⟨wordIs_of_encode rfl (by decide) (by omega) (by omega) (by omega) (by decide) rfl,
    fun hy R hR => hok ((sumOf_some_iff hy).1 hR), fun h => ?_, fun hA hB => ?_⟩
  · exact failsWith_of_result (i := .padd d a b) (runPadd_of_affAdd (affAdd_of_sumOf_none h))
  · obtain ⟨R, hR⟩ := exists_affAdd hA hB
    exact ⟨R, (sumOf_some_iff (canonicalY_of_valid hA)).2 hR, hok hR⟩

/-- Settles O24: AffDbl is the tangent rule of R134. -/
theorem pdblDoublesThePoint : Obligations.PdblDoublesThePoint :=
  fun d a s => ⟨wordIs_of_encode rfl (by decide) (by omega) (by omega) (by decide) (by decide) rfl,
    fun hy => ⟨_, (doubleOf_iff hy).2 rfl, succeedsWith_of_result (i := .pdbl d a) rfl⟩⟩

theorem succeedsWith_pchk {a : PReg} {s : State} {v : Bool} (h : (s.toRegs.getP a).isOnCurve = v) :
    succeedsWith (.pchk a) s { s.toRegs with bool := v } := by
  subst h
  exact succeedsWith_of_result (i := .pchk a) rfl

/-- Settles O25: the equation is evaluated on the contents, whatever they are. -/
theorem pchkTestsMembership : Obligations.PchkTestsMembership := by
  intro a s
  refine ⟨wordIs_of_encode rfl (by decide) (by decide) (by omega) (by decide) (by decide) rfl, fun hA => ?_,
    fun x y hA hE => ?_, fun x y hA hE => ?_, fun hA => succeedsWith_pchk (Point.isOnCurve_of_valid hA)⟩
  · exact succeedsWith_pchk (hA ▸ rfl)
  · exact succeedsWith_pchk (hA ▸ (onCurve_iff_onE x y).2 hE)
  · exact succeedsWith_pchk (hA ▸ Bool.eq_false_iff.2 (mt (onCurve_iff_onE x y).1 hE))

theorem succeedsWith_pchkxy {a b : FReg} {s : State} (ha : fNat s a < Config.p) (hb : fNat s b < Config.p) {v : Bool}
    (h : onCurve (s.toRegs.getF a) (s.toRegs.getF b) = v) :
    succeedsWith (.pchkxy a b) s { s.toRegs with bool := v } := by
  subst h
  exact succeedsWith_of_result (i := .pchkxy a b) (fop_bind_fop_of_lt _ ha hb)

/-- Settles O26: membership off the curve is a result, not an error. -/
theorem pchkxyTestsCoordinates : Obligations.PchkxyTestsCoordinates :=
  fun a b _ => ⟨wordIs_of_encode rfl (by decide) (by decide) a.isLt b.isLt (by decide) rfl,
    fun ha hb hE => succeedsWith_pchkxy ha hb ((onCurve_iff_onE _ _).2 hE),
    fun ha hb hE => succeedsWith_pchkxy ha hb (Bool.eq_false_iff.2 (mt (onCurve_iff_onE _ _).1 hE)),
    fun h => failsWith_of_result (i := .pchkxy a b) (e := .notCanonical) (fop_bind_fop_of_le _ h)⟩

theorem succeedsWith_peq (a b : PReg) (s : State) :
    succeedsWith (.peq a b) s { s.toRegs with bool := decide (s.toRegs.getP a = s.toRegs.getP b) } :=
  succeedsWith_of_result (i := .peq a b) rfl

/-- Settles O27, by the two outcomes of the comparison. -/
theorem peqComparesStructurally : Obligations.PeqComparesStructurally :=
  fun a b s => ⟨wordIs_of_encode rfl (by decide) (by decide) (by omega) (by omega) (by decide) rfl,
    fun h => decide_eq_true h ▸ succeedsWith_peq a b s, fun h => decide_eq_false h ▸ succeedsWith_peq a b s⟩

end Sys2Proof.Machine

/-! PROOFS. The group of the curve (R139): the valid points are points of Mathlib's Weierstrass curve y² = x³ + 7 over Z/p,
AffAdd is its addition, and the laws of that group come back through the embedding. -/

namespace Sys2Proof.Machine

/-! ### The curve over Z/p -/

/-- The curve E of R1 over Z/p. -/
def curveE : WeierstrassCurve.Affine (ZMod Config.p) := ⟨0, 0, 0, 0, 7⟩

/-- A point of the curve is not singular: its y is not 0 (R6), and p is odd. -/
theorem curveE_nonsingular {x y : ZMod Config.p} (h : y ^ 2 = x ^ 3 + 7) : curveE.Nonsingular x y := by
  have := p_fact
  have hy : y ≠ 0 := by
    rintro rfl
    exact cube_add_seven_ne_zero x (by rw [← h, zero_pow two_ne_zero])
  rw [WeierstrassCurve.Affine.nonsingular_iff', WeierstrassCurve.Affine.equation_iff]
  refine ⟨by simpa [curveE] using h, .inr ?_⟩
  simpa [curveE] using And.intro two_ne_zero_modP hy

section
variable [Fact (Nat.Prime Config.p)] {x1 y1 x2 y2 x y : ZMod Config.p}

/-- A point is its own opposite only if its y is 0, because p is odd. -/
theorem curveE_eq_negY_iff (x y : ZMod Config.p) : y = curveE.negY x y ↔ y = 0 := by
  have hneg : curveE.negY x y = -y := by simp [curveE]
  rw [hneg, eq_neg_iff_add_eq_zero, ← two_mul, mul_eq_zero, or_iff_right two_ne_zero_modP]

theorem curveE_slope_tangent (hy : y ≠ curveE.negY x y) : curveE.slope x x y y = 3 * x * x * (2 * y)⁻¹ := by
  rw [WeierstrassCurve.Affine.slope_of_Y_ne rfl hy, div_eq_mul_inv]
  simp [curveE, two_mul, pow_two, mul_assoc]

theorem curveE_slope_secant (hx : x1 ≠ x2) : curveE.slope x1 x2 y1 y2 = (y2 - y1) * (x2 - x1)⁻¹ := by
  rw [WeierstrassCurve.Affine.slope_of_X_ne hx, ← neg_div_neg_eq, neg_sub, neg_sub, div_eq_mul_inv]

/-- The third point of the line, reflected, is the sum (R133, R134). -/
theorem curveE_some_eq_add {h1 : curveE.Nonsingular x1 y1} {h2 : curveE.Nonsingular x2 y2} {h : curveE.Nonsingular x y}
    (hne : ¬ (x1 = x2 ∧ y1 = curveE.negY x2 y2)) (hx : x = curveE.slope x1 x2 y1 y2 ^ 2 - x1 - x2)
    (hy : y = curveE.slope x1 x2 y1 y2 * (x1 - x) - y1) :
    WeierstrassCurve.Affine.Point.some x y h = .some x1 y1 h1 + .some x2 y2 h2 := by
  have hX : x = curveE.addX x1 x2 (curveE.slope x1 x2 y1 y2) := by
    simpa [WeierstrassCurve.Affine.addX, curveE] using hx
  have hY : y = curveE.addY x1 x2 y1 (curveE.slope x1 x2 y1 y2) := by
    rw [WeierstrassCurve.Affine.addY, WeierstrassCurve.Affine.negAddY, ← hX, hy]
    simp only [WeierstrassCurve.Affine.negY, curveE]
    ring
  rw [WeierstrassCurve.Affine.Point.add_some hne, WeierstrassCurve.Affine.Point.some.injEq]
  exact ⟨hX, hY⟩

end

/-! ### The embedding -/

theorem fe_add_fe_eq_zero_iff (y1 y2 : W256) : fe y1 + fe y2 = 0 ↔ (y1.toNat + y2.toNat) % Config.p = 0 := by
  rw [fe, fe, ← Nat.cast_add, ZMod.natCast_eq_zero_iff, Nat.dvd_iff_mod_eq_zero]

theorem curveE_nonsingular_of_valid {x y : W256} (hA : (Point.aff x y).valid = true) :
    curveE.Nonsingular (fe x) (fe y) := by
  obtain ⟨-, -, hE⟩ := (Point.valid_aff_iff x y).1 hA
  exact curveE_nonsingular hE

/-- The point of the curve over Z/p that a valid point is (R31). -/
def Point.toCurve : (A : Point) → A.valid = true → curveE.Point
  | .inf, _ => 0
  | .aff x y, hA => .some (fe x) (fe y) (curveE_nonsingular_of_valid hA)

theorem Point.toCurve_inj {A B : Point} {hA : A.valid = true} {hB : B.valid = true} (h : A.toCurve hA = B.toCurve hB) :
    A = B := by
  match A, B with
  | .inf, .inf => rfl
  | .inf, .aff _ _ => cases h
  | .aff _ _, .inf => cases h
  | .aff x1 y1, .aff x2 y2 =>
    obtain ⟨hx1, hy1, -⟩ := (Point.valid_aff_iff x1 y1).1 hA
    obtain ⟨hx2, hy2, -⟩ := (Point.valid_aff_iff x2 y2).1 hB
    injection h with hx hy
    rw [eq_of_fe_eq hx1 hx2 hx, eq_of_fe_eq hy1 hy2 hy]

section
variable [Fact (Nat.Prime Config.p)]

theorem toCurve_of_doubleOf {A R : Point} (hA : A.valid = true) (hR : R.valid = true) (h : DoubleOf A R) :
    R.toCurve hR = A.toCurve hA + A.toCurve hA := by
  cases A with
  | inf => cases h; exact (zero_add _).symm
  | aff x y =>
    obtain ⟨-, hy, -⟩ := (Point.valid_aff_iff x y).1 hA
    rw [DoubleOf] at h
    split_ifs at h with h0
    · subst h
      exact (WeierstrassCurve.Affine.Point.add_self_of_Y_eq ((curveE_eq_negY_iff _ _).2 (by rw [h0, fe_zero]))).symm
    · obtain ⟨xr, yr, rfl, -, -, hX, hY⟩ := h
      have hne := mt (curveE_eq_negY_iff (fe x) (fe y)).1 (fe_ne_zero hy h0)
      rw [← curveE_slope_tangent hne] at hX hY
      exact curveE_some_eq_add (fun h => hne h.2) (by rw [hX]; ring) hY

/-- AffAdd is the addition of the curve's points (R133). -/
theorem toCurve_of_affAdd {A B C : Point} (hA : A.valid = true) (hB : B.valid = true) (hC : C.valid = true)
    (h : affAdd A B = .ok C) : C.toCurve hC = A.toCurve hA + B.toCurve hB := by
  rw [← sumOf_some_iff (canonicalY_of_valid hA)] at h
  match A, B with
  | .inf, B => cases h; exact (zero_add _).symm
  | .aff x1 y1, .inf => cases h; exact (add_zero _).symm
  | .aff x1 y1, .aff x2 y2 =>
    rw [SumOf] at h
    split_ifs at h with hopp hsame hdx
    · obtain ⟨rfl, hy⟩ := hopp
      cases h
      have hneg : fe y1 = -fe y2 := eq_neg_of_add_eq_zero_left ((fe_add_fe_eq_zero_iff y1 y2).2 hy)
      exact (WeierstrassCurve.Affine.Point.add_of_Y_eq rfl (by simpa [curveE] using hneg)).symm
    · obtain ⟨rfl, rfl⟩ := hsame
      obtain ⟨R, hR, hD⟩ := h
      cases hR
      exact toCurve_of_doubleOf hA hC hD
    · obtain ⟨xr, yr, hR, -, -, hX, hY⟩ := h
      cases hR
      have hne : fe x1 ≠ fe x2 := fun e => hdx (by rw [e, sub_self])
      rw [← curveE_slope_secant hne] at hX hY
      exact curveE_some_eq_add (fun h => hne h.1) hX hY

end

/-! ### The laws -/

/-- Closure, with the sum's place in the group of the curve. -/
theorem exists_affAdd_toCurve [Fact (Nat.Prime Config.p)] {A B : Point} (hA : A.valid = true) (hB : B.valid = true) :
    ∃ C, ∃ hC : C.valid = true, affAdd A B = .ok C ∧ C.toCurve hC = A.toCurve hA + B.toCurve hB := by
  obtain ⟨C, h⟩ := exists_affAdd hA hB
  have hC := affAdd_valid hA hB h
  exact ⟨C, hC, h, toCurve_of_affAdd hA hB hC h⟩

theorem affAdd_comm {A B : Point} (hA : A.valid = true) (hB : B.valid = true) : affAdd A B = affAdd B A := by
  have := p_fact
  obtain ⟨C, hC, hAB, hsum⟩ := exists_affAdd_toCurve hA hB
  obtain ⟨D, hD, hBA, hsum'⟩ := exists_affAdd_toCurve hB hA
  have h : C.toCurve hC = D.toCurve hD := by rw [hsum, hsum', add_comm]
  rw [hAB, hBA, Point.toCurve_inj h]

/-- Settles O40: commutativity is that of the group of the curve. -/
theorem groupLawClosureIdentityInverseCommutativity : Obligations.GroupLawClosureIdentityInverseCommutativity := by
  intro A B hA hB
  obtain ⟨C, hC⟩ := exists_affAdd hA hB
  exact ⟨⟨C, hC, affAdd_valid hA hB hC⟩, affDbl_valid hA, affNeg_valid hA, affAdd_inf_right A, affAdd_inf_left A,
    affAdd_affNeg A, affAdd_comm hA hB⟩

/-- Settles O41: both sums stand for the same point of the group of the curve. -/
theorem groupLawIsAssociative : Obligations.GroupLawIsAssociative := by
  intro A B C hA hB hC
  have := p_fact
  obtain ⟨AB, hABv, hAB, sumAB⟩ := exists_affAdd_toCurve hA hB
  obtain ⟨BC, hBCv, hBC, sumBC⟩ := exists_affAdd_toCurve hB hC
  obtain ⟨R, hRv, hR, sumR⟩ := exists_affAdd_toCurve hABv hC
  obtain ⟨R', hRv', hR', sumR'⟩ := exists_affAdd_toCurve hA hBCv
  have h : R.toCurve hRv = R'.toCurve hRv' := by rw [sumR, sumR', sumAB, sumBC, add_assoc]
  exact ⟨AB, BC, R, hAB, hBC, hR, Point.toCurve_inj h ▸ hR'⟩

end Sys2Proof.Machine

/-! PROOFS. The Jacobian commands (R151-R154): what each puts into J[d] or P[d], and that the formulas stand for the affine
law (R155). -/

namespace Sys2Proof.Machine

/-! ### The point a triple stands for (R154) -/

theorem affineOf_of_z_eq_zero {T : Jac} {A : Point} (h0 : T.z = 0#256) : AffineOf T A ↔ A = .inf := by
  rw [AffineOf, if_pos h0]

theorem affineOf_of_z_ne_zero {T : Jac} {A : Point} (h0 : T.z ≠ 0#256) :
    AffineOf T A ↔ ∃ x y : W256, A = .aff x y ∧ canonical x = true ∧ canonical y = true ∧
      fe x = fe T.x * (fe T.z ^ 2)⁻¹ ∧ fe y = fe T.y * (fe T.z ^ 3)⁻¹ := by
  rw [AffineOf, if_neg h0]

/-- The machine's Rep is the point of R154. -/
theorem Jac.rep_affineOf {T : Jac} (hz : canonical T.z = true) : AffineOf T T.rep := by
  have := p_fact
  by_cases h0 : T.z = 0#256
  · exact (affineOf_of_z_eq_zero h0).2 (if_pos h0)
  · refine (affineOf_of_z_ne_zero h0).2 ⟨_, _, Jac.rep_of_z_ne_zero h0, canonical_modP _, canonical_modP _, ?_, ?_⟩ <;>
      simp [fe_invP hz h0, pow_succ, mul_assoc]

theorem AffineOf.unique {T : Jac} {A B : Point} (hA : AffineOf T A) (hB : AffineOf T B) : A = B := by
  by_cases h0 : T.z = 0#256
  · rw [affineOf_of_z_eq_zero h0] at hA hB
    rw [hA, hB]
  · rw [affineOf_of_z_ne_zero h0] at hA hB
    obtain ⟨x1, y1, rfl, hx1, hy1, hX1, hY1⟩ := hA
    obtain ⟨x2, y2, rfl, hx2, hy2, hX2, hY2⟩ := hB
    rw [eq_of_fe_eq hx1 hx2 (hX1.trans hX2.symm), eq_of_fe_eq hy1 hy2 (hY1.trans hY2.symm)]

theorem Jac.ofPoint_affineOf {A : Point} (hA : A.valid = true) : AffineOf (Jac.ofPoint A) A := by
  cases A with
  | inf => exact (affineOf_of_z_eq_zero rfl).2 rfl
  | aff x y =>
    obtain ⟨hx, hy, -⟩ := (Point.valid_aff_iff x y).1 hA
    have h1 : (1#256 : W256) ≠ 0#256 := by decide
    exact (affineOf_of_z_ne_zero h1).2 ⟨x, y, rfl, hx, hy, by simp [Jac.ofPoint], by simp [Jac.ofPoint]⟩

theorem Jac.canonical_z_of_valid {T : Jac} (hT : T.valid = true) : canonical T.z = true := by
  obtain rfl | ⟨-, -, hz, -⟩ := (Jac.valid_iff T).1 hT
  · decide
  · exact hz

/-- The point of a valid triple is valid. -/
theorem AffineOf.valid {T : Jac} {A : Point} (hT : T.valid = true) (hA : AffineOf T A) : A.valid = true :=
  hA.unique (Jac.rep_affineOf (Jac.canonical_z_of_valid hT)) ▸ Jac.rep_valid hT

/-- A triple with Z ≠ 0 holds the coordinates of its point, scaled by Z² and Z³. -/
theorem AffineOf.scaled {T : Jac} {A : Point} (hz : canonical T.z = true) (h0 : T.z ≠ 0#256) (hA : AffineOf T A) :
    ∃ x y : W256, A = .aff x y ∧ canonical x = true ∧ canonical y = true ∧
      fe T.x = fe x * fe T.z ^ 2 ∧ fe T.y = fe y * fe T.z ^ 3 := by
  have := p_fact
  have hz0 := fe_ne_zero hz h0
  obtain ⟨x, y, rfl, hx, hy, hX, hY⟩ := (affineOf_of_z_ne_zero h0).1 hA
  refine ⟨x, y, rfl, hx, hy, ?_, ?_⟩
  · rw [hX, inv_mul_cancel_right₀ (pow_ne_zero 2 hz0)]
  · rw [hY, inv_mul_cancel_right₀ (pow_ne_zero 3 hz0)]

/-! ### The commands -/

/-- Settles O28: a valid point is the one its triple stands for. -/
theorem jldLoadsTheTriple : Obligations.JldLoadsTheTriple := by
  intro d a s
  have hok : succeedsWith (.jld d a) s (s.toRegs.setJ d (Jac.ofPoint (s.toRegs.getP a))) :=
    succeedsWith_of_result (i := .jld d a) rfl
  refine ⟨wordIs_of_encode rfl (by decide) (by omega) (by omega) (by decide) (by decide) rfl, fun hA => ?_,
    fun x y hA => ?_, fun t hA ht => ?_⟩
  · rwa [hA] at hok
  · rwa [hA] at hok
  · cases hok.symm.trans ht
    have hJ : (s.toRegs.setJ d (Jac.ofPoint (s.toRegs.getP a))).getJ d = Jac.ofPoint (s.toRegs.getP a) := by simp
    exact hJ.symm ▸ Jac.ofPoint_affineOf hA

/-- Settles O29: the machine's mixed addition is that of R152. -/
theorem jaddComputesTheMixedSum : Obligations.JaddComputesTheMixedSum :=
  fun d a b s => ⟨wordIs_of_encode rfl (by decide) (by omega) (by omega) (by omega) (by decide) rfl,
    _, jacAdd_sumOf (s.toRegs.getJ a) (s.toRegs.getP b), succeedsWith_of_result (i := .jadd d a b) rfl⟩

/-- Settles O30: the machine's doubling is that of R153. -/
theorem jdblComputesTheDoubledTriple : Obligations.JdblComputesTheDoubledTriple :=
  fun d a s => ⟨wordIs_of_encode rfl (by decide) (by omega) (by omega) (by decide) (by decide) rfl,
    _, jacDbl_doubleOf (s.toRegs.getJ a), succeedsWith_of_result (i := .jdbl d a) rfl⟩

/-- Settles O31: the machine's Rep is the point of R154. -/
theorem jtoaGivesTheAffinePoint : Obligations.JtoaGivesTheAffinePoint :=
  fun d a s => ⟨wordIs_of_encode rfl (by decide) (by omega) (by omega) (by decide) (by decide) rfl,
    fun hz => ⟨_, Jac.rep_affineOf ((canonical_iff _).2 hz), succeedsWith_of_result (i := .jtoa d a) rfl⟩⟩

/-! ### The formulas and the affine law (R155) -/

section
variable {F : Type} [Field F] {x1 y1 x2 y2 Z X Y xr yr : F}

/-- R153's triple for (x1·Z², y1·Z³, Z) stands for the point of the tangent rule (R134). -/
theorem tangent_of_jacobian_double (h2 : (2 : F) ≠ 0) (hy : y1 ≠ 0) (hZ : Z ≠ 0)
    (hX : X = (3 * (x1 * Z ^ 2) ^ 2) ^ 2 - 2 * (4 * (x1 * Z ^ 2) * (y1 * Z ^ 3) ^ 2))
    (hY : Y = 3 * (x1 * Z ^ 2) ^ 2 * (4 * (x1 * Z ^ 2) * (y1 * Z ^ 3) ^ 2 - X) - 8 * (y1 * Z ^ 3) ^ 4)
    (hxr : xr = X * ((2 * (y1 * Z ^ 3) * Z) ^ 2)⁻¹) (hyr : yr = Y * ((2 * (y1 * Z ^ 3) * Z) ^ 3)⁻¹) :
    xr = (3 * x1 * x1 * (2 * y1)⁻¹) ^ 2 - 2 * x1 ∧ yr = 3 * x1 * x1 * (2 * y1)⁻¹ * (x1 - xr) - y1 := by
  subst hxr hyr hY hX
  constructor
  · field_simp
    ring
  · field_simp
    ring

/-- R152's triple for (x1·Z², y1·Z³, Z) and (x2, y2) stands for the point of the secant rule (R133). -/
theorem secant_of_jacobian_sum (hx : x2 - x1 ≠ 0) (hZ : Z ≠ 0) {H r : F}
    (hH : H = x2 * Z ^ 2 - x1 * Z ^ 2) (hr : r = y2 * Z ^ 3 - y1 * Z ^ 3)
    (hX : X = r ^ 2 - H ^ 3 - 2 * (x1 * Z ^ 2 * H ^ 2)) (hY : Y = r * (x1 * Z ^ 2 * H ^ 2 - X) - y1 * Z ^ 3 * H ^ 3)
    (hxr : xr = X * ((Z * H) ^ 2)⁻¹) (hyr : yr = Y * ((Z * H) ^ 3)⁻¹) :
    xr = ((y2 - y1) * (x2 - x1)⁻¹) ^ 2 - x1 - x2 ∧ yr = (y2 - y1) * (x2 - x1)⁻¹ * (x1 - xr) - y1 := by
  rw [← sub_mul] at hH hr
  subst hxr hyr hY hX hH hr
  constructor
  · field_simp
    ring
  · field_simp

end

/-- R153's triple stands for the double of the point that the operand stands for (R134). -/
theorem JacDoubleOf.doubleOf {T T' : Jac} {A R : Point} (hT : T.valid = true) (h : JacDoubleOf T T')
    (hA : AffineOf T A) (hR : AffineOf T' R) : DoubleOf A R := by
  have := p_fact
  rw [JacDoubleOf] at h
  obtain rfl | ⟨-, hTy, hz, hz0, -⟩ := (Jac.valid_iff T).1 hT
  · rw [if_pos (.inl rfl)] at h
    subst h
    rw [(affineOf_of_z_eq_zero rfl).1 hA]
    exact (affineOf_of_z_eq_zero rfl).1 hR
  · obtain ⟨x, y, rfl, -, hy, hX, hY⟩ := hA.scaled hz hz0
    have hZ := fe_ne_zero hz hz0
    have hy0 : T.y = 0#256 ↔ y = 0#256 := by
      rw [← fe_eq_zero_iff hTy, ← fe_eq_zero_iff hy, hY, mul_eq_zero, or_iff_left (pow_ne_zero 3 hZ)]
    simp only [hz0, hy0, false_or] at h
    rw [DoubleOf]
    split_ifs at h ⊢ with h0
    · subst h
      exact (affineOf_of_z_eq_zero rfl).1 hR
    · obtain ⟨-, -, hz', hX', hY', hZ'⟩ := h
      have hyne := fe_ne_zero hy h0
      rw [hX, hY] at hX' hY'
      rw [hY] at hZ'
      have hz0' : T'.z ≠ 0#256 := by
        rw [Ne, ← fe_eq_zero_iff hz', hZ']
        exact mul_ne_zero (mul_ne_zero two_ne_zero_modP (mul_ne_zero hyne (pow_ne_zero 3 hZ))) hZ
      obtain ⟨xr, yr, rfl, hxr, hyr, hXr, hYr⟩ := (affineOf_of_z_ne_zero hz0').1 hR
      rw [hZ'] at hXr hYr
      exact ⟨xr, yr, rfl, hxr, hyr, tangent_of_jacobian_double two_ne_zero_modP hyne hZ hX' hY' hXr hYr⟩

/-- The sum of a point with itself is its double (R133). -/
theorem DoubleOf.sumOf_self {A R : Point} (hA : A.valid = true) (h : DoubleOf A R) : SumOf A A (some R) := by
  have := p_fact
  cases A with
  | inf => exact congrArg some h
  | aff x y =>
    rw [SumOf]
    split_ifs with hopp hsame
    · obtain ⟨-, hy, -⟩ := (Point.valid_aff_iff x y).1 hA
      have h0 : y = 0#256 := by
        rw [← fe_add_fe_eq_zero_iff, ← two_mul, mul_eq_zero, fe_eq_zero_iff hy] at hopp
        exact hopp.2.resolve_left two_ne_zero_modP
      rw [DoubleOf, if_pos h0] at h
      exact congrArg some h
    · exact ⟨R, rfl, h⟩
    · exact absurd ⟨rfl, rfl⟩ hsame
    · exact absurd ⟨rfl, rfl⟩ hsame

/-- Points of the curve with one abscissa and different ordinates add up to Inf (R133). -/
theorem sumOf_inf_of_ne {x y1 y2 : W256} (hA : (Point.aff x y1).valid = true) (hB : (Point.aff x y2).valid = true)
    (hne : fe y1 ≠ fe y2) : SumOf (.aff x y1) (.aff x y2) (some .inf) := by
  have := p_fact
  obtain ⟨-, -, hE1⟩ := (Point.valid_aff_iff x y1).1 hA
  obtain ⟨-, -, hE2⟩ := (Point.valid_aff_iff x y2).1 hB
  have hneg : fe y1 = -fe y2 := (sq_eq_sq_iff_eq_or_eq_neg.1 (hE1.trans hE2.symm)).resolve_left hne
  have hopp := (fe_add_fe_eq_zero_iff y1 y2).1 (by rw [hneg, neg_add_cancel])
  rw [SumOf, if_pos ⟨rfl, hopp⟩]

/-- A difference of canonical values, scaled by a field element other than 0. -/
theorem fe_mul_sub_fe_mul_eq_zero_iff {x1 x2 : W256} (h1 : canonical x1 = true) (h2 : canonical x2 = true)
    {c : ZMod Config.p} (hc : c ≠ 0) : fe x2 * c - fe x1 * c = 0 ↔ x1 = x2 := by
  have := p_fact
  rw [sub_eq_zero, mul_left_inj' hc]
  exact ⟨fun e => eq_of_fe_eq h1 h2 e.symm, fun e => congrArg fe e.symm⟩

/-- R152's triple stands for the sum of the point that the triple stands for and the other operand (R133). -/
theorem JacSumOf.sumOf {T T' : Jac} {A B R : Point} (hT : T.valid = true) (hB : B.valid = true) (h : JacSumOf T B T')
    (hA : AffineOf T A) (hR : AffineOf T' R) : SumOf A B (some R) := by
  have := p_fact
  have hAv := hA.valid hT
  match B with
  | .inf =>
    rw [JacSumOf] at h
    subst h
    exact (sumOf_some_iff (canonicalY_of_valid hAv)).2 (by rw [affAdd_inf_right, hA.unique hR])
  | .aff x2 y2 =>
    rw [JacSumOf] at h
    by_cases hz0 : T.z = 0#256
    · rw [if_pos hz0] at h
      subst h
      rw [(affineOf_of_z_eq_zero hz0).1 hA, SumOf, hR.unique (Jac.ofPoint_affineOf hB)]
    · have hz := Jac.canonical_z_of_valid hT
      have hZ := fe_ne_zero hz hz0
      obtain ⟨x1, y1, rfl, hx1, hy1, hX, hY⟩ := hA.scaled hz hz0
      obtain ⟨hx2, hy2, -⟩ := (Point.valid_aff_iff x2 y2).1 hB
      have hx := fe_mul_sub_fe_mul_eq_zero_iff hx1 hx2 (pow_ne_zero 2 hZ)
      have hy := fe_mul_sub_fe_mul_eq_zero_iff hy1 hy2 (pow_ne_zero 3 hZ)
      rw [if_neg hz0, hX, hY] at h
      split_ifs at h with hH hr
      · obtain rfl := hx.1 hH
        obtain rfl := hy.1 hr
        exact (h.doubleOf hT hA hR).sumOf_self hAv
      · obtain rfl := hx.1 hH
        rw [(affineOf_of_z_eq_zero (by rw [h])).1 hR]
        exact sumOf_inf_of_ne hAv hB fun e => hr (by rw [e, sub_self])
      · have hne : x1 ≠ x2 := mt hx.2 hH
        have hdx : fe x2 - fe x1 ≠ 0 := fun e => hne (eq_of_fe_eq hx1 hx2 (sub_eq_zero.1 e).symm)
        obtain ⟨-, -, hz', hX', hY', hZ'⟩ := h
        have hz0' : T'.z ≠ 0#256 := by
          rw [Ne, ← fe_eq_zero_iff hz', hZ']
          exact mul_ne_zero hZ hH
        obtain ⟨xr, yr, rfl, hxr, hyr, hXr, hYr⟩ := (affineOf_of_z_ne_zero hz0').1 hR
        rw [hZ'] at hXr hYr
        rw [SumOf, if_neg (hne ·.1), if_neg (hne ·.1), if_neg hdx]
        exact ⟨xr, yr, rfl, hxr, hyr, secant_of_jacobian_sum hdx hZ rfl rfl hX' hY' hXr hYr⟩

/-- Settles O42: the formulas of R152 and R153 compute the triple of the affine sum and of the affine double. -/
theorem jacobianAgreesWithTheAffineLaw : Obligations.JacobianAgreesWithTheAffineLaw := by
  intro T A hT hA
  have hrep {U : Jac} (hU : U.valid = true) : AffineOf U U.rep := Jac.rep_affineOf (Jac.canonical_z_of_valid hU)
  have hy := canonicalY_of_valid (Jac.rep_valid hT)
  have hsum := jacAdd_sumOf T A
  have hdbl := jacDbl_doubleOf T
  refine ⟨(sumOf_some_iff hy).1 (hsum.sumOf hT hA (hrep hT) (hrep (hsum.valid hT hA))),
    ((doubleOf_iff hy).1 (hdbl.doubleOf hT (hrep hT) (hrep (hdbl.valid hT)))).symm,
    (hrep (Jac.ofPoint_valid hA)).unique (Jac.ofPoint_affineOf hA)⟩

end Sys2Proof.Machine

/-! PROOFS. Scalar multiplication (R165, R167): SMul doubles and adds, and a multiple of a valid point is its multiple in the
group of the curve. -/

namespace Sys2Proof.Machine

/-! ### The loop, from the low end -/

/-- One turn of the loop of R165, at a bit b of the scalar: double, then add A where b = 1. -/
def sMulStep (A : Point) (b : Bool) (acc : Point) : Except Err Point :=
  if b then affAdd (affDbl acc) A else .ok (affDbl acc)

theorem sMulLoop_succ (k : Nat) (A : Point) (i : Nat) (acc : Point) :
    sMulLoop k A (i + 1) acc = sMulStep A (k.testBit i) acc >>= sMulLoop k A i := by
  rw [sMulLoop, ← sMulStep]
  cases sMulStep A (k.testBit i) acc <;> rfl

/-- The lowest bit is the loop's last turn; the turns before it are those of k / 2. -/
theorem sMulLoop_bit (b : Bool) (k : Nat) (A : Point) :
    ∀ (i : Nat) (acc : Point), sMulLoop (Nat.bit b k) A (i + 1) acc = sMulLoop k A i acc >>= sMulStep A b
  | 0, acc => by
    rw [sMulLoop_succ, Nat.testBit_bit_zero]
    exact bind_pure _
  | i + 1, acc => by
    rw [sMulLoop_succ, sMulLoop_succ, Nat.testBit_bit_succ, bind_assoc]
    exact bind_congr (sMulLoop_bit b k A i)

theorem bitlen_bit {b : Bool} {k : Nat} (h : k = 0 → b = true) : bitlen (Nat.bit b k) = bitlen k + 1 := by
  obtain rfl | hk := Nat.eq_zero_or_pos k
  · rw [h rfl]
    decide
  · have h2 : Nat.bit b k >>> 1 = k := Nat.bit_shiftRight_one b k
    have h0 : Nat.bit b k ≠ 0 := fun h => hk.ne' (Nat.bit_eq_zero_iff.1 h).1
    rw [bitlen, bitlen, if_neg h0, if_neg hk.ne', Nat.log2_eq_succ_log2_shiftRight (h2.symm ▸ hk.ne'), h2]

/-- The cases k = 0 and k = 1 of R165 give what the loop gives. -/
theorem sMulNat_eq_loop (k : Nat) (A : Point) : sMulNat k A = sMulLoop k A (bitlen k) .inf := by
  rw [sMulNat]
  split_ifs with h0 h1
  · rw [h0]; rfl
  · rw [h1]; rfl
  · rfl

/-- R165: a multiple from the multiple by half the scalar. -/
theorem sMulNat_bit {b : Bool} {k : Nat} (h : k = 0 → b = true) (A : Point) :
    sMulNat (Nat.bit b k) A = sMulNat k A >>= sMulStep A b := by
  rw [sMulNat_eq_loop, sMulNat_eq_loop, bitlen_bit h, sMulLoop_bit]

theorem sMulLoop_inf (k : Nat) : ∀ i, sMulLoop k .inf i .inf = .ok .inf
  | 0 => rfl
  | i + 1 => by
    have hstep : ∀ b, sMulStep .inf b .inf = .ok .inf := by decide
    rw [sMulLoop_succ, hstep]
    exact sMulLoop_inf k i

theorem sMulNat_inf (k : Nat) : sMulNat k .inf = .ok .inf := by rw [sMulNat_eq_loop, sMulLoop_inf]

theorem sMul_natCast (k : Nat) (A : Point) : sMul k A = sMulNat k A := if_neg (Int.natCast_nonneg k).not_gt

theorem sMul_neg_natCast (k : Nat) (A : Point) : sMul (-(k : Int)) A = sMulNat k (affNeg A) := by
  cases k with
  | zero => rfl
  | succ n => rw [sMul, if_pos (by omega), neg_neg, Int.toNat_natCast]

theorem sMul_zero (A : Point) : sMul 0 A = .ok .inf := rfl

theorem sMul_one (A : Point) : sMul 1 A = .ok A := rfl

theorem sMul_neg_one (A : Point) : sMul (-1) A = .ok (affNeg A) := rfl

theorem sMul_inf (k : Int) : sMul k .inf = .ok .inf := by
  rw [sMul]
  split
  · exact sMulNat_inf _
  · exact sMulNat_inf _

/-! ### PMUL -/

theorem succeedsWith_pmul {d a : PReg} {s : State} {R : Point}
    (h : sMul (if s.ksign then -(s.kmag.toNat : Int) else s.kmag.toNat) (s.toRegs.getP a) = .ok R) :
    succeedsWith (.pmul d a) s { s.toRegs with p := s.p.set d.val R } :=
  succeedsWith_of_result (i := .pmul d a) (congrArg (· >>= fun A => pure (s.toRegs.setP d A)) h)

/-- Settles O32: the lowest bit of the scalar is the last turn of the loop. -/
theorem pmulDoublesAndAdds : Obligations.PmulDoublesAndAdds := by
  refine ⟨fun d a s => ⟨wordIs_of_encode rfl (by decide) (by omega) (by omega) (by decide) (by decide) rfl,
    fun R hR => succeedsWith_pmul hR⟩, fun A => ⟨sMul_zero A, sMul_one A, sMul_neg_one A⟩, fun k A R hk hR => ?_,
    fun k A _ => (sMul_neg_natCast k A).trans (sMul_natCast k _).symm, sMul_inf⟩
  have hbit : ∀ b, sMul (Nat.bit b k : Nat) A = sMulStep A b R := fun b => by
    rw [sMul_natCast, sMulNat_bit (fun h0 => absurd h0 hk.ne'), ← sMul_natCast, hR]
    rfl
  exact ⟨hbit false, hbit true⟩

/-! ### Multiples in the group of the curve -/

/-- The outcome is a valid point, and Q is its place in the group of the curve. -/
def Yields (m : Except Err Point) (Q : curveE.Point) : Prop :=
  ∃ R, ∃ hR : R.valid = true, m = .ok R ∧ R.toCurve hR = Q

theorem Yields.unique {m m' : Except Err Point} {Q : curveE.Point} (h : Yields m Q) (h' : Yields m' Q) : m = m' := by
  obtain ⟨R, hR, rfl, rfl⟩ := h
  obtain ⟨R', hR', rfl, h⟩ := h'
  rw [Point.toCurve_inj h]

theorem yields_inf : Yields (.ok .inf) 0 := ⟨.inf, rfl, rfl, rfl⟩

section
variable [Fact (Nat.Prime Config.p)]

theorem yields_affAdd {A B : Point} (hA : A.valid = true) (hB : B.valid = true) :
    Yields (affAdd A B) (A.toCurve hA + B.toCurve hB) := exists_affAdd_toCurve hA hB

theorem toCurve_affNeg {A : Point} (hA : A.valid = true) : (affNeg A).toCurve (affNeg_valid hA) = -A.toCurve hA :=
  (neg_eq_of_add_eq_zero_right (toCurve_of_affAdd hA (affNeg_valid hA) Point.valid_inf (affAdd_affNeg A)).symm).symm

theorem neg_natCast_zsmul_toCurve {A : Point} (hA : A.valid = true) (k : Nat) :
    (-(k : Int)) • A.toCurve hA = k • (affNeg A).toCurve (affNeg_valid hA) := by
  rw [neg_zsmul, natCast_zsmul, toCurve_affNeg, neg_nsmul]

theorem toCurve_affDbl {A : Point} (hA : A.valid = true) :
    (affDbl A).toCurve (affDbl_valid hA) = 2 • A.toCurve hA := by
  rw [two_nsmul]
  exact toCurve_of_doubleOf hA _ ((doubleOf_iff (canonicalY_of_valid hA)).2 rfl)

theorem yields_sMulStep {A acc : Point} (hA : A.valid = true) (hacc : acc.valid = true) (b : Bool) :
    Yields (sMulStep A b acc) (2 • acc.toCurve hacc + b.toNat • A.toCurve hA) := by
  cases b with
  | false => exact ⟨_, affDbl_valid hacc, rfl, by rw [toCurve_affDbl hacc, Bool.toNat_false, zero_nsmul, add_zero]⟩
  | true =>
    rw [Bool.toNat_true, one_nsmul, ← toCurve_affDbl hacc]
    exact yields_affAdd (affDbl_valid hacc) hA

theorem yields_sMulNat {A : Point} (hA : A.valid = true) (k : Nat) : Yields (sMulNat k A) (k • A.toCurve hA) := by
  induction k using Nat.binaryRec' with
  | zero =>
    rw [zero_nsmul]
    exact yields_inf
  | bit b k hb ih =>
    obtain ⟨R, hR, hk, hRk⟩ := ih
    rw [sMulNat_bit hb, hk, Nat.bit_val, add_nsmul, mul_nsmul', ← hRk]
    exact yields_sMulStep hA hR b

theorem yields_sMul {A : Point} (hA : A.valid = true) (k : Int) : Yields (sMul k A) (k • A.toCurve hA) := by
  obtain ⟨n, rfl | rfl⟩ := k.eq_nat_or_neg
  · rw [sMul_natCast, natCast_zsmul]
    exact yields_sMulNat hA n
  · rw [sMul_neg_natCast, neg_natCast_zsmul_toCurve]
    exact yields_sMulNat (affNeg_valid hA) n

theorem yields_nTimes {A : Point} (hA : A.valid = true) : ∀ k, Yields (nTimes k A) (k • A.toCurve hA)
  | 0 => by
    rw [zero_nsmul]
    exact yields_inf
  | k + 1 => by
    obtain ⟨B, hB, hk, hBk⟩ := yields_nTimes hA k
    rw [nTimes, hk, succ_nsmul, ← hBk]
    exact yields_affAdd hB hA

theorem sMul_eq_nTimes {A : Point} (hA : A.valid = true) (neg : Bool) (k : Nat) :
    sMul (if neg then -(k : Int) else k) A = nTimes k (if neg then affNeg A else A) := by
  cases neg with
  | false => exact (yields_sMul hA k).unique (natCast_zsmul (A.toCurve hA) k ▸ yields_nTimes hA k)
  | true =>
    exact (yields_sMul hA (-(k : Int))).unique
      (neg_natCast_zsmul_toCurve hA k ▸ yields_nTimes (affNeg_valid hA) k)

/-- R167: a multiple of a multiple is the multiple by the product. -/
theorem exists_sMul_sMul {A : Point} (hA : A.valid = true) (k d : Int) :
    ∃ B, sMul d A = .ok B ∧ B.valid = true ∧ sMul k B = sMul (k * d) A := by
  obtain ⟨B, hB, hd, hBd⟩ := yields_sMul hA d
  refine ⟨B, hd, hB, (yields_sMul hB k).unique ?_⟩
  rw [hBd, ← mul_zsmul]
  exact yields_sMul hA (k * d)

end

/-- Settles O33: PMUL and repeated addition give the same multiple in the group of the curve. -/
theorem pmulIsRepeatedAddition : Obligations.PmulIsRepeatedAddition := by
  intro d a s hA
  have := p_fact
  obtain ⟨R, hR, hk, -⟩ := yields_sMul hA (if s.ksign then -(s.kmag.toNat : Int) else s.kmag.toNat)
  exact ⟨R, sMul_eq_nTimes hA s.ksign s.kmag.toNat ▸ hk, hR, succeedsWith_pmul hk⟩

/-- Settles O34: multiples compose in the group of the curve; the bounds of R167 are not needed. -/
theorem scalarMultiplesCompose : Obligations.ScalarMultiplesCompose := by
  intro A k d hA _ _ _
  have := p_fact
  exact ⟨exists_sMul_sMul hA k d, mul_comm k d ▸ exists_sMul_sMul hA d k, sMul_zero A, sMul_one A, sMul_neg_one A⟩

end Sys2Proof.Machine

/-! PROOFS. The compressed codec (R175-R177): the bytes of a number, the one buffer a valid point encodes to, and the one
point that buffer decodes to. -/

namespace Sys2Proof.Machine

/-! ### Bytes, most significant first -/

theorem beValue_append_singleton (bytes : List Byte) (b : Byte) :
    beValue (bytes ++ [b]) = beValue bytes * 256 + b.toNat := by
  simp [beValue]

/-- The sum of R176, for any number of bytes. -/
theorem beValue_ofFn {n : Nat} (b : Fin n → Byte) :
    beValue (List.ofFn b) = ∑ i, (b i).toNat * 256 ^ (i.rev : Nat) := by
  induction n with
  | zero => rfl
  | succ n ih =>
    rw [List.ofFn_succ', List.concat_eq_append, beValue_append_singleton, ih, Fin.sum_univ_castSucc, Finset.sum_mul]
    simp [Fin.rev_castSucc, pow_succ, mul_assoc]

/-- The bytes of a number, last one first, are its digits to base 256 in Mathlib's bijection. -/
theorem beValue_ofFn_eq_digits {n : Nat} (b : Fin n → Byte) :
    beValue (List.ofFn b) = (finFunctionFinEquiv fun i : Fin n => (b i.rev).toFin : Fin ((2 ^ 8) ^ n)).val := by
  rw [beValue_ofFn, finFunctionFinEquiv_apply, ← Equiv.sum_comp Fin.revPerm]
  simp

theorem toNat_byteBE (x : W256) (i : Nat) : (byteBE x i).toNat = x.toNat / 256 ^ (31 - i) % 256 := by
  rw [byteBE, BitVec.extractLsb'_toNat, Nat.shiftRight_eq_div_pow, pow_mul]
  rfl

theorem val_rev_byte (i : Fin 32) : (i.rev : Nat) = 31 - i.val := Nat.add_sub_add_right 31 1 i

theorem toFin_byteBE {x : W256} {v : Fin ((2 ^ 8) ^ 32)} (hv : x.toNat = v.val) (i : Fin 32) :
    (byteBE x i).toFin = finFunctionFinEquiv.symm v i.rev := by
  apply Fin.ext
  calc (byteBE x i).toNat = v.val / 256 ^ (i.rev : Nat) % 256 := by
        rw [toNat_byteBE, hv, val_rev_byte]
    _ = (finFunctionFinEquiv.symm v i.rev).val := rfl

/-- The bytes of a number spell it. -/
theorem beValue_byteBE (x : W256) : beValue (List.ofFn fun i : Fin 32 => byteBE x i) = x.toNat := by
  obtain ⟨v, hv⟩ : ∃ v : Fin ((2 ^ 8) ^ 32), x.toNat = v.val := ⟨⟨x.toNat, x.isLt⟩, rfl⟩
  simp only [beValue_ofFn_eq_digits, toFin_byteBE hv, Fin.rev_rev, Equiv.apply_symm_apply, hv]

theorem toNat_ofNat_beValue (b : Fin 32 → Byte) :
    (BitVec.ofNat 256 (beValue (List.ofFn b))).toNat = beValue (List.ofFn b) := by
  rw [BitVec.toNat_ofNat, Nat.mod_eq_of_lt]
  rw [beValue_ofFn_eq_digits]
  exact Fin.isLt _

/-- The bytes of the number that 32 bytes spell are those bytes. -/
theorem byteBE_ofNat_beValue (b : Fin 32 → Byte) (i : Fin 32) :
    byteBE (BitVec.ofNat 256 (beValue (List.ofFn b))) i = b i := by
  have hdigit := toFin_byteBE ((toNat_ofNat_beValue b).trans (beValue_ofFn_eq_digits b)) i
  rw [Equiv.symm_apply_apply, Fin.rev_rev] at hdigit
  exact BitVec.toFin_inj.1 hdigit

/-! ### The buffer -/

/-- R175: the parity byte of an ordinate. -/
def parityByte (y : W256) : Byte := if y.toNat % 2 = 0 then 0x02#8 else 0x03#8

theorem toNat_parityByte (y : W256) : (parityByte y).toNat = 2 + y.toNat % 2 := by
  rw [parityByte]
  split_ifs with h
  · rw [h]; rfl
  · rw [Nat.mod_two_ne_zero.1 h]; rfl

theorem parityByte_eq_iff {y : W256} {lead : Byte} (hlead : lead = 0x02#8 ∨ lead = 0x03#8) :
    parityByte y = lead ↔ y.toNat % 2 = lead.toNat - 2 := by
  rw [← BitVec.toNat_inj, toNat_parityByte]
  have hnum : lead.toNat = 2 ∨ lead.toNat = 3 := hlead.imp (congrArg BitVec.toNat) (congrArg BitVec.toNat)
  omega

@[simp] theorem compressed_zero (x y : W256) : (compressed x y)[0] = parityByte y := by
  simp [compressed, parityByte]

@[simp] theorem compressed_succ (x y : W256) (i : Fin 32) : (compressed x y)[1 + i.val] = byteBE x i := by
  simp [compressed]

theorem toList_drop_one (buf : Vector Byte 33) : buf.toList.drop 1 = List.ofFn fun i : Fin 32 => buf[1 + i.val] :=
  List.ext_getElem (by simp) fun i _ _ => by
    simp only [List.getElem_drop, List.getElem_ofFn, Vector.getElem_toList]

theorem Regs.cbufX_eq (r : Regs) :
    r.cbufX = BitVec.ofNat 256 (beValue (List.ofFn fun i : Fin 32 => r.cbuf[1 + i.val])) := by
  rw [Regs.cbufX, toList_drop_one]

/-- The number that PDEC reads is the sum of R176. -/
theorem toNat_cbufX (s : State) : s.toRegs.cbufX.toNat = cbufNat s := by
  rw [Regs.cbufX_eq, toNat_ofNat_beValue, beValue_ofFn, cbufNat]
  exact Finset.sum_congr rfl fun i _ => by rw [val_rev_byte]

/-- A buffer is the encoding of (x, y) exactly if PDEC reads from it the parity byte of y and x. -/
theorem Regs.cbuf_eq_compressed_iff (r : Regs) (x y : W256) :
    r.cbuf = compressed x y ↔ r.cbufLead = parityByte y ∧ r.cbufX = x := by
  have hlead : r.cbufLead = r.cbuf[0] := rfl
  rw [Regs.cbufX_eq, hlead]
  constructor
  · intro h
    simp only [h, compressed_zero, compressed_succ, beValue_byteBE, BitVec.ofNat_toNat, BitVec.setWidth_eq, and_self]
  · rintro ⟨h0, rfl⟩
    refine Vector.ext fun k hk => ?_
    obtain _ | k := k
    · rw [h0, compressed_zero]
    · have hbyte := byteBE_ofNat_beValue (fun i : Fin 32 => r.cbuf[1 + i.val]) ⟨k, by omega⟩
      simp only [Nat.add_comm k 1]
      exact hbyte.symm.trans (compressed_succ _ _ _).symm

/-! ### PENC (R175) -/

theorem runPenc_of_inf {a : PReg} {r : Regs} (h : r.getP a = .inf) :
    runPenc a r = .error .encodingOfInfinityUnsupported := by
  rw [runPenc, h]

theorem runPenc_of_aff {a : PReg} {r : Regs} {x y : W256} (h : r.getP a = .aff x y) :
    runPenc a r = .ok (r.setCbuf (compressed x y)) := by
  rw [runPenc, h]

/-- Settles O35, by the bytes of the buffer. -/
theorem pencWritesTheCompressedForm : Obligations.PencWritesTheCompressedForm :=
  fun a s => ⟨wordIs_of_encode rfl (by decide) (by decide) (by omega) (by decide) (by decide) rfl,
    fun hA => failsWith_of_result (i := .penc a) (runPenc_of_inf hA),
    fun x y hA => ⟨compressed x y, compressed_zero x y, fun i => by rw [compressed_succ, toNat_byteBE],
      succeedsWith_of_result (i := .penc a) (runPenc_of_aff hA)⟩⟩

/-! ### Decompression (R176) -/

theorem toNat_curveRhs (x : W256) : (curveRhs x).toNat = (x.toNat ^ 3 + 7) % Config.p := by
  refine (mod_p_eq_of_cast_eq (modP_lt _) ?_).symm
  rw [← curveRhs, fe_curveRhs, fe]
  push_cast
  rfl

theorem Point.y_ne_zero_of_valid {x y : W256} (hA : (Point.aff x y).valid = true) : y ≠ 0#256 := by
  obtain ⟨hx, hy, hE⟩ := (Point.valid_aff_iff x y).1 hA
  exact noCurvePointHasYZero x y ((canonical_iff x).1 hx) ((canonical_iff y).1 hy) ((onE_iff x y).2 hE)

/-- The other root has the other parity, as p is odd and no root is 0 (R6). -/
theorem p_sub_mod_two {x c : W256} (hA : (Point.aff x c).valid = true) :
    (modP ((Config.p : Int) - ival c)).toNat % 2 = 1 - c.toNat % 2 := by
  have hc := canonicalY_of_valid hA x c rfl
  have h0 : c.toNat ≠ 0 := fun h => Point.y_ne_zero_of_valid hA (BitVec.eq_of_toNat_eq h)
  rw [ival, ← Nat.cast_sub hc.le, toNat_modP_natCast, Nat.mod_eq_of_lt (Nat.sub_lt p_pos (Nat.pos_of_ne_zero h0))]
  rw [Config.p] at hc ⊢
  omega

theorem decompress_of_lead_ne {lead : Byte} (h2 : lead ≠ 0x02#8) (h3 : lead ≠ 0x03#8) (x : W256) :
    decompress lead x = .error .invalidEncodingPrefix := if_pos ⟨h2, h3⟩

section
variable {lead : Byte} (hlead : lead = 0x02#8 ∨ lead = 0x03#8) {x : W256}
include hlead

theorem decompress_of_not_canonical (hx : Config.p ≤ x.toNat) : decompress lead x = .error .notCanonical := by
  rw [decompress, if_neg (by tauto), if_pos]
  simpa [canonical] using hx

/-- The last checks of R176, past the canonical one. -/
theorem decompress_of_canonical (hx : x.toNat < Config.p) :
    decompress lead x =
      if !isRootOf (sqrtCandidate (curveRhs x)) (curveRhs x) then .error .noSquareRoot
      else if (sqrtCandidate (curveRhs x)).toNat % 2 = lead.toNat - 2 then .ok (.aff x (sqrtCandidate (curveRhs x)))
      else if sqrtCandidate (curveRhs x) = 0#256 then .error .invalidPoint
      else .ok (affNeg (.aff x (sqrtCandidate (curveRhs x)))) := by
  rw [decompress, if_neg (by tauto), if_neg (by simpa [canonical] using hx)]
  rfl

theorem decompress_of_no_root (hx : x.toNat < Config.p)
    (hno : ¬ ∃ y, y * y % Config.p = (x.toNat ^ 3 + 7) % Config.p) : decompress lead x = .error .noSquareRoot := by
  have hroot : ¬ isRootOf (sqrtCandidate (curveRhs x)) (curveRhs x) = true :=
    fun h => hno ⟨_, ((isRootOf_iff _ _).1 h).trans (toNat_curveRhs x)⟩
  rw [decompress_of_canonical hlead hx, if_pos (by simpa using hroot)]

/-- A right side with a root gives an ordinate of either parity: the candidate, or p less it; neither is 0 (R6). -/
theorem exists_decompress_of_root (hx : x.toNat < Config.p)
    (hroot : ∃ y, y * y % Config.p = (x.toNat ^ 3 + 7) % Config.p) :
    ∃ y, decompress lead x = .ok (.aff x y) ∧ parityByte y = lead := by
  obtain ⟨y, hy⟩ := hroot
  have hsq : y * y % Config.p = (curveRhs x).toNat := hy.trans (toNat_curveRhs x).symm
  have hc : isRootOf (sqrtCandidate (curveRhs x)) (curveRhs x) = true := isRootOf_sqrtCandidate (modP_lt _) hsq
  have hA := valid_of_isRootOf ((canonical_iff x).2 hx) (canonical_sqrtCandidate _) hc
  rw [decompress_of_canonical hlead hx, if_neg (by simpa using hc)]
  obtain ⟨c, hcand⟩ : ∃ c, sqrtCandidate (curveRhs x) = c := ⟨_, rfl⟩
  rw [hcand] at hA ⊢
  split_ifs with hpar h0
  · exact ⟨c, rfl, (parityByte_eq_iff hlead).2 hpar⟩
  · exact absurd h0 (Point.y_ne_zero_of_valid hA)
  · refine ⟨_, rfl, (parityByte_eq_iff hlead).2 ?_⟩
    have hbit : lead.toNat - 2 < 2 := by obtain rfl | rfl := hlead <;> decide
    rw [p_sub_mod_two hA]
    omega

end

/-- A valid point is fixed by its abscissa and its parity byte: the other root p - y has the other parity. -/
theorem eq_of_parityByte_eq {x y z : W256} (hy : (Point.aff x y).valid = true) (hz : (Point.aff x z).valid = true)
    (h : parityByte y = parityByte z) : y = z := by
  have := p_fact
  obtain ⟨-, hcy, hEy⟩ := (Point.valid_aff_iff x y).1 hy
  obtain ⟨-, hcz, hEz⟩ := (Point.valid_aff_iff x z).1 hz
  obtain heq | hneg := sq_eq_sq_iff_eq_or_eq_neg.1 (hEy.trans hEz.symm)
  · exact eq_of_fe_eq hcy hcz heq
  · have hother : y = modP ((Config.p : Int) - ival z) :=
      eq_of_fe_eq hcy (canonical_modP _) (hneg.trans (fe_p_sub z).symm)
    have hpar := congrArg BitVec.toNat h
    rw [toNat_parityByte, toNat_parityByte, hother, p_sub_mod_two hz] at hpar
    omega

theorem exists_root_of_valid {x y : W256} (hA : (Point.aff x y).valid = true) :
    ∃ y, y * y % Config.p = (x.toNat ^ 3 + 7) % Config.p := by
  obtain ⟨-, -, hE⟩ := (Point.valid_aff_iff x y).1 hA
  exact ⟨y.toNat, by rw [← pow_two]; exact (onE_iff x y).2 hE⟩

/-- PDEC's decoding succeeds exactly on the parity byte and the abscissa of a valid point, and gives that point. -/
theorem decompress_eq_ok_iff {lead : Byte} {x : W256} {A : Point} :
    decompress lead x = .ok A ↔ ∃ y, A = .aff x y ∧ A.valid = true ∧ parityByte y = lead := by
  constructor
  · intro h
    have hlead : lead = 0x02#8 ∨ lead = 0x03#8 := by
      by_contra hne
      rw [not_or] at hne
      cases (decompress_of_lead_ne hne.1 hne.2 x).symm.trans h
    have hx : x.toNat < Config.p := by
      by_contra hge
      cases (decompress_of_not_canonical hlead (not_lt.1 hge)).symm.trans h
    have hroot : ∃ y, y * y % Config.p = (x.toNat ^ 3 + 7) % Config.p := by
      by_contra hno
      cases (decompress_of_no_root hlead hx hno).symm.trans h
    obtain ⟨y, hdec, hpar⟩ := exists_decompress_of_root hlead hx hroot
    cases h.symm.trans hdec
    exact ⟨y, rfl, decompress_valid h, hpar⟩
  · rintro ⟨y, rfl, hA, rfl⟩
    obtain ⟨hx, -, -⟩ := (Point.valid_aff_iff x y).1 hA
    have hlead : parityByte y = 0x02#8 ∨ parityByte y = 0x03#8 := ite_eq_or_eq _ _ _
    obtain ⟨z, hdec, hpar⟩ := exists_decompress_of_root hlead ((canonical_iff x).1 hx) (exists_root_of_valid hA)
    rw [hdec, eq_of_parityByte_eq (decompress_valid hdec) hA hpar]

/-! ### PDEC (R176) and the round trips (R177) -/

theorem runPdec_of_decompress {d : PReg} {r : Regs} {out : Except Err Point}
    (h : decompress r.cbufLead r.cbufX = out) : runPdec d r = out.map (r.setP d) := by
  rw [runPdec, h]
  cases out <;> rfl

/-- Settles O36, check by check. -/
theorem pdecReadsTheCompressedForm : Obligations.PdecReadsTheCompressedForm := by
  intro d s
  rw [← toNat_cbufX]
  have hfail : ∀ {e}, decompress s.toRegs.cbufLead s.toRegs.cbufX = .error e → failsWith (.pdec d) s e.code :=
    fun h => failsWith_of_result (i := .pdec d) (runPdec_of_decompress h)
  refine ⟨wordIs_of_encode rfl (by decide) (by omega) (by decide) (by decide) (by decide) rfl,
    fun h2 h3 => hfail (decompress_of_lead_ne h2 h3 _), fun hlead hx => hfail (decompress_of_not_canonical hlead hx),
    fun hlead hx hno => hfail (decompress_of_no_root hlead hx hno), fun hlead hx hroot => ?_⟩
  obtain ⟨y, hdec, hpar⟩ := exists_decompress_of_root hlead hx hroot
  obtain ⟨-, hy, hE⟩ := (Point.valid_aff_iff _ y).1 (decompress_valid hdec)
  exact ⟨_, y, rfl, (canonical_iff y).1 hy, (onE_iff _ y).2 hE, (parityByte_eq_iff hlead).1 hpar,
    succeedsWith_of_result (i := .pdec d) (runPdec_of_decompress hdec)⟩

theorem decompress_compressed {r : Regs} {x y : W256} (hA : (Point.aff x y).valid = true)
    (h : r.cbuf = compressed x y) : decompress r.cbufLead r.cbufX = .ok (.aff x y) := by
  obtain ⟨hlead, hx⟩ := (r.cbuf_eq_compressed_iff x y).1 h
  rw [hlead, hx]
  exact decompress_eq_ok_iff.2 ⟨y, rfl, hA, rfl⟩

theorem exists_eq_compressed_of_decompress {r : Regs} {A : Point} (h : decompress r.cbufLead r.cbufX = .ok A) :
    ∃ x y, A = .aff x y ∧ r.cbuf = compressed x y := by
  obtain ⟨y, hA, -, hpar⟩ := decompress_eq_ok_iff.1 h
  exact ⟨r.cbufX, y, hA, (r.cbuf_eq_compressed_iff _ y).2 ⟨hpar.symm, rfl⟩⟩

theorem Err.code_ne_zero (e : Err) : e.code ≠ 0#4 := by cases e <;> decide

theorem exec_of_result_ok {i : Instr} {s : State} {r : Regs} (h : result i s.toRegs = .ok r) :
    exec i s = .next (s.succeed r) := succeedsWith_of_result h

/-- A command that has ended without an error code has succeeded. -/
theorem result_of_exec {i : Instr} {s t : State} (h : exec i s = .next t) (h0 : t.errcode = 0#4) :
    ∃ r, result i s.toRegs = .ok r ∧ t = s.succeed r := by
  obtain ⟨r, hr, hs⟩ | ⟨e, -, hs⟩ := exec_cases i s <;> cases h.symm.trans hs
  · exact ⟨r, hr, rfl⟩
  · exact absurd h0 e.code_ne_zero

/-- Settles O37: the buffers that PDEC accepts are the encodings of the valid points. -/
theorem codecRoundTrips : Obligations.CodecRoundTrips := by
  refine ⟨fun a d s x y hP hA => ?_, fun d s t hexec h0 => ?_⟩
  · have henc := exec_of_result_ok (i := .penc a) (runPenc_of_aff hP)
    have hdec := decompress_compressed (r := (s.succeed (s.toRegs.setCbuf (compressed x y))).toRegs) hA rfl
    exact ⟨_, _, henc, exec_of_result_ok (i := .pdec d) (runPdec_of_decompress hdec), rfl, by simp⟩
  · obtain ⟨r, hr, rfl⟩ := result_of_exec hexec h0
    obtain ⟨A, hdec, hset⟩ := ok_of_bind_ok hr
    obtain ⟨x, y, rfl, hbuf⟩ := exists_eq_compressed_of_decompress hdec
    cases hset
    exact ⟨_, exec_of_result_ok (i := .penc d) (runPenc_of_aff (by simp)), rfl, hbuf.symm⟩

end Sys2Proof.Machine

/-! PROOFS. NOP (R190): its word is the only legal one with opcode 0. -/

namespace Sys2Proof

/-- Opcode 0 uses no field (R94), so a legal word with it has every field 0. -/
theorem eq_zero_of_legal_of_opOf {w : W32} (hop : opOf w = 0x00#8) (h : Legal w = true) : w = 0#32 := by
  simp only [Legal, hop, BitVec.toNat_ofNat, Nat.zero_mod, kinds, Bool.and_eq_true, decide_eq_true_eq,
    Kind.none_admits_iff, OfNat.zero_ne_ofNat, if_false] at h
  obtain ⟨⟨hrsv, ⟨hrd, h1⟩, h2⟩, himm⟩ := h
  rw [← mkWord_fields w hrsv, hop, hrd, h1, h2, himm]
  decide

end Sys2Proof

namespace Sys2Proof.Machine

/-- Settles O38: the word and the completion by what the encoder and `runNop` give, the other words by their fields. -/
theorem nopChangesNothing : Obligations.NopChangesNothing := fun _ =>
  ⟨wordIs_of_encode rfl (by decide) (by decide) (by decide) (by decide) (by decide) rfl,
    succeedsWith_of_result (i := .nop) rfl,
    fun _ hop hne => Bool.eq_false_iff.2 fun h => hne (eq_zero_of_legal_of_opOf hop h)⟩

end Sys2Proof.Machine

/-! PROOFS. Exceptions (R201, R203, R205, R207): the codes a command ends with, what a failed command leaves unchanged, the
race of a write or a reset with a completion, and the interrupt line. -/

namespace Sys2Proof.Machine

/-- Settles O9: an error code comes from the error completion alone, which writes ERRCODE, DONE and BUSY. -/
theorem failedCommandsChangeNoResult : Obligations.FailedCommandsChangeNoResult := by
  intro i s t h hcode
  obtain ⟨r, -, e⟩ | ⟨err, -, e⟩ := exec_cases i s <;> cases h.symm.trans e
  · exact absurd rfl hcode
  · rfl

/-! ### The codes of each command (R201) -/

/-- A sequence that fails does so in its first computation, or in the rest. -/
theorem error_of_bind_error {α β : Type} {m : Except Err α} {f : α → Except Err β} {e : Err}
    (h : (m >>= f) = .error e) : m = .error e ∨ ∃ a, m = .ok a ∧ f a = .error e := by
  cases m with
  | ok a => exact .inr ⟨a, rfl, h⟩
  | error e' => cases h; exact .inl rfl

theorem eq_notCanonical_of_fop {r : Regs} {i : FReg} {e : Err} (h : r.fop i = .error e) : e = .notCanonical := by
  obtain ⟨-, hf⟩ | ⟨-, hf⟩ := r.fop_cases i <;> cases h.symm.trans hf
  rfl

/-- A command that fetches one field operand fails with NOT_CANONICAL or after the fetch (R110). -/
theorem error_of_fop_bind {r : Regs} {a : FReg} {k : W256 → Result} {e : Err} (h : (r.fop a >>= k) = .error e) :
    e = .notCanonical ∨ ∃ x, k x = .error e := by
  obtain ha | ⟨x, -, hx⟩ := error_of_bind_error h
  · exact .inl (eq_notCanonical_of_fop ha)
  · exact .inr ⟨x, hx⟩

/-- The same for two field operands. -/
theorem error_of_fop_bind_fop_bind {r : Regs} {a b : FReg} {k : W256 → W256 → Result} {e : Err}
    (h : (do let x ← r.fop a; let y ← r.fop b; k x y) = .error e) : e = .notCanonical ∨ ∃ x y, k x y = .error e := by
  obtain he | ⟨x, hx⟩ := error_of_fop_bind h
  · exact .inl he
  · exact (error_of_fop_bind hx).imp_right fun hy => ⟨x, hy⟩

theorem eq_notCanonical_of_fieldBinary {g : W256 → W256 → W256} {d a b : FReg} {r : Regs} {e : Err}
    (h : fieldBinary g d a b r = .error e) : e = .notCanonical :=
  (error_of_fop_bind_fop_bind h).resolve_right fun ⟨_, _, hk⟩ => nomatch hk

theorem exists_constOf {c : Selector} (hc : Selector.legal c = true) : ∃ v, constOf c = .ok v := by
  have hall : ∀ c : Selector, Selector.legal c = true → (constOf c).isOk = true := by decide
  cases h : constOf c with
  | ok v => exact ⟨v, rfl⟩
  | error e => simpa [h, Except.isOk, Except.toBool] using hall c hc

/-- A multiple of a valid point is defined (R165). -/
theorem exists_sMul {A : Point} (hA : A.valid = true) (k : Int) : ∃ R, sMul k A = .ok R := by
  have := p_fact
  obtain ⟨R, -, hR, -⟩ := yields_sMul hA k
  exact ⟨R, hR⟩

/-- PDEC's decoding never fails with INVALID_POINT: a root of the curve's right side is not 0 (R6, R176). -/
theorem error_of_decompress {lead : Byte} {x : W256} {e : Err} (h : decompress lead x = .error e) :
    e = .invalidEncodingPrefix ∨ e = .notCanonical ∨ e = .noSquareRoot := by
  by_cases hlead : lead = 0x02#8 ∨ lead = 0x03#8
  · obtain hx | hx := Nat.lt_or_ge x.toNat Config.p
    · by_cases hroot : ∃ y, y * y % Config.p = (x.toNat ^ 3 + 7) % Config.p
      · obtain ⟨y, hok, -⟩ := exists_decompress_of_root hlead hx hroot
        cases h.symm.trans hok
      · cases h.symm.trans (decompress_of_no_root hlead hx hroot)
        exact .inr (.inr rfl)
    · cases h.symm.trans (decompress_of_not_canonical hlead hx)
      exact .inr (.inl rfl)
  · obtain ⟨h2, h3⟩ := not_or.1 hlead
    cases h.symm.trans (decompress_of_lead_ne h2 h3 x)
    exact .inl rfl

theorem zero_mem_possibleCodes (i : Instr) : 0#4 ∈ possibleCodes i := by
  cases i <;> exact List.mem_cons_self

/-- Every error of a well-formed command on valid registers is one that R201 lists for it as reachable. -/
theorem code_mem_possibleCodes {i : Instr} {r : Regs} {e : Err} (hi : i.wellFormed = true) (hr : r.Valid)
    (h : result i r = .error e) : e.code ∈ possibleCodes i := by
  cases i with
  | nop | pldg | pneg | pdbl | pchk | peq | jld | jadd | jdbl | jtoa => cases h
  | fadd | fsub | fmul | mmul =>
    obtain rfl := eq_notCanonical_of_fieldBinary h
    simp [possibleCodes, Err.code]
  | finv d a =>
    obtain rfl | ⟨x, h⟩ := error_of_fop_bind h
    · simp [possibleCodes, Err.code]
    · dsimp only at h
      split at h <;> cases h
      simp [possibleCodes, Err.code]
  | fsqrt d a =>
    obtain rfl | ⟨x, h⟩ := error_of_fop_bind h
    · simp [possibleCodes, Err.code]
    · dsimp only at h
      split at h <;> cases h
  | fldc d c =>
    obtain ⟨v, hv⟩ := exists_constOf hi
    obtain h | ⟨v, -, h⟩ := error_of_bind_error h
    · cases h.symm.trans hv
    · cases h
  | pmk d a b =>
    obtain rfl | ⟨x, y, h⟩ := error_of_fop_bind_fop_bind h
    · simp [possibleCodes, Err.code]
    · split at h <;> cases h
      simp [possibleCodes, Err.code]
  | pchkxy a b =>
    obtain rfl | ⟨x, y, h⟩ := error_of_fop_bind_fop_bind h
    · simp [possibleCodes, Err.code]
    · cases h
  | padd d a b =>
    obtain ⟨R, hR⟩ := exists_affAdd (hr.points a) (hr.points b)
    cases h.symm.trans (runPadd_of_affAdd hR)
  | pmul d a =>
    obtain ⟨R, hR⟩ := exists_sMul (hr.points a) r.scalar
    obtain h | ⟨A, -, h⟩ := error_of_bind_error h
    · cases h.symm.trans hR
    · cases h
  | penc a =>
    cases hA : r.getP a with
    | inf => cases h.symm.trans (runPenc_of_inf hA); simp [possibleCodes, Err.code]
    | aff x y => cases h.symm.trans (runPenc_of_aff hA)
  | pdec d =>
    obtain h | ⟨A, -, h⟩ := error_of_bind_error h
    · obtain rfl | rfl | rfl := error_of_decompress h <;> simp [possibleCodes, Err.code]
    · cases h

theorem execWord_of_not_legal (s : State) {w : W32} (h : Legal w = false) :
    execWord s w = .next (s.raiseErr .illegalCommand) := by
  rw [execWord, decode_eq_none_of_not_legal h]
  rfl

/-- Settles O10: a success ends with 0, and the errors are those of R201. -/
theorem commandsEndWithTheirCodesOnly : Obligations.CommandsEndWithTheirCodesOnly := by
  refine ⟨fun i s hi hs => ?_, fun w s hw => ⟨_, execWord_of_not_legal s hw, rfl⟩⟩
  obtain ⟨r, -, e⟩ | ⟨err, herr, e⟩ := exec_cases i s
  · exact ⟨_, e, zero_mem_possibleCodes i⟩
  · exact ⟨_, e, code_mem_possibleCodes hi hs.regs herr⟩

/-! ### A write or a reset racing a completion (R205) -/

theorem run_two {s t u : State} (hs : step s = .next t) (ht : step t = .next u) : Host.Core.run core 2 s = .next u :=
  (run_succ_of_step hs 1).trans (run_succ_of_step ht 0)

theorem wordResult_irqen {r r' : Regs} (h : wordResult r = .ok r') : r'.irqen = r.irqen := by
  unfold wordResult at h
  split at h
  · exact (result_frame h).irqen
  · cases h

theorem busy_of_coreTurn {s u : State} (h : coreTurn s = .next u) : u.busy = false := by
  cases hb : s.busy with
  | false => cases h.symm.trans (coreTurn_idle hb); exact hb
  | true =>
    obtain ⟨t, ht, hbusy, -⟩ := coreTurn_completes hb
    cases h.symm.trans ht
    exact hbusy

section
variable {s u : State} (hb : s.busy = true) (h : coreTurn s = .next u)
include hb h

/-- The plan takes no part in a completion. -/
theorem coreTurn_agenda (rest : List Event) :
    coreTurn { s with agenda := rest } = .next { u with agenda := rest } := by
  have hturn : coreTurn { s with agenda := rest } = complete { s with agenda := rest } (wordResult s.toRegs) :=
    coreTurn_busy hb
  rw [coreTurn_busy hb] at h
  rw [hturn]
  cases hr : wordResult s.toRegs <;> cases h.symm.trans (congrArg (complete s) hr) <;> rfl

/-- A dropped write before a completion leaves OVR and its acknowledgement, and the completion is as without it (R74). -/
theorem coreTurn_after_dropped (b : Option BusResult) :
    coreTurn { s with ovr := true, bus := b } = .next { u with ovr := true, bus := b } := by
  have hturn : coreTurn { s with ovr := true, bus := b } =
      complete { s with ovr := true, bus := b } ((wordResult s.toRegs).map (·.withFlags s.irqen s.done true)) := by
    rw [← wordResult_withFlags]
    exact coreTurn_busy hb
  rw [coreTurn_busy hb] at h
  rw [hturn]
  cases hr : wordResult s.toRegs with
  | ok r =>
    cases h.symm.trans (congrArg (complete s) hr)
    rw [← wordResult_irqen hr]
    rfl
  | error e =>
    cases h.symm.trans (congrArg (complete s) hr)
    rfl

end

/-- A write of a word of F while BUSY = 1 is dropped and sets OVR (R74). -/
theorem State.access_f_busy {s : State} (hb : s.busy = true) (i : Fin 16) (w : Fin 8) (v : W32) :
    s.access (hostWrite (BitVec.ofNat 12 (0x100 + 0x20 * i.val + 4 * w.val)) v) =
      { s with ovr := true, bus := some (.write false) } := by
  obtain ⟨h4, hl⟩ := locate_f i w
  rw [s.access_hostWrite_at v h4 hl, State.writeLoc_dropped hb rfl]

theorem State.access_f_idle {s : State} (hb : s.busy = false) (i : Fin 16) (w : Fin 8) (v : W32) :
    s.access (hostWrite (BitVec.ofNat 12 (0x100 + 0x20 * i.val + 4 * w.val)) v) =
      { s with toRegs := s.toRegs.setF i (setWord (s.toRegs.getF i) w v), bus := some (.write false) } := by
  obtain ⟨h4, hl⟩ := locate_f i w
  rw [s.access_hostWrite_at v h4 hl, State.writeLoc_f_idle hb]

theorem State.access_softReset (s : State) {z : W32} (hz : z[1] = true) :
    s.access (hostWrite 0x004#12 z) = { s with toRegs := Regs.reset, bus := some (.write false) } := by
  obtain ⟨-, -, hreset⟩ := ctrlReadsAndWrites s z
  exact (hreset hz).1

/-- The core's turn, then a host access. -/
theorem run_core_access {s u : State} (hb : s.busy = true) (h : coreTurn s = .next u) (a : Access) :
    Host.Core.run core 2 { s with agenda := [.core, .access a] } = .next (State.access { u with agenda := [] } a) :=
  run_two ((step_of_agenda_core rfl).trans (coreTurn_agenda hb h [.access a])) (step_of_agenda_access rfl)

/-- A host access, then the core's turn. -/
theorem run_access_core {s t u : State} {a : Access} (ha : State.access { s with agenda := [.core] } a = t)
    (ht : t.agenda = [.core]) (hu : coreTurn { t with agenda := [] } = .next u) :
    Host.Core.run core 2 { s with agenda := [.access a, .core] } = .next u :=
  run_two ((step_of_agenda_access rfl).trans (congrArg _ ha)) ((step_of_agenda_core ht).trans hu)

/-- Settles O57: a write before the completion is dropped, one after it finds the block idle, and a reset leaves nothing
to complete or nothing of the completion. -/
theorem racingWriteAndCompletion : Obligations.RacingWriteAndCompletion := by
  intro s u i w v z hb hu hz
  have hturn : coreTurn { s with agenda := [] } = .next u := (step_of_agenda_nil rfl).symm.trans hu
  have hidle : u.busy = false := busy_of_coreTurn hturn
  have hafter := run_core_access (s := { s with agenda := [] }) hb hturn
  refine ⟨⟨_, run_access_core (State.access_f_busy (s := { s with agenda := [.core] }) hb i w v) rfl
      (coreTurn_after_dropped (s := { s with agenda := [] }) hb hturn _), rfl⟩,
    ⟨_, hafter _, by rw [State.access_f_idle (s := { u with agenda := [] }) hidle]⟩,
    ⟨_, run_access_core (State.access_softReset _ hz) rfl (coreTurn_idle rfl), rfl⟩,
    ⟨_, hafter _, by rw [State.access_softReset _ hz]⟩⟩

/-! ### The interrupt line (R207) -/

/-- A write of CTRL with bit 1 = 0 stores bit 0 in IRQEN (R23). -/
theorem State.access_irqen (s : State) {v : W32} (hv : v[1] = false) :
    s.access (hostWrite 0x004#12 v) = { s with irqen := v[0], bus := some (.write false) } := by
  obtain ⟨-, hirqen, -⟩ := ctrlReadsAndWrites s v
  exact hirqen hv

/-- Settles O54: each of the accesses clears IRQEN or DONE, and a completion sets DONE. -/
theorem irqIsEnabledAndPending : Obligations.IrqIsEnabledAndPending := by
  intro s
  refine ⟨rfl, fun v hv => ?_, fun v hv => ?_, fun v hb => ?_, rfl, ?_, fun i => ?_⟩
  · rw [(statusReadsAndWrites s v).2, Regs.irq, hv]
    simp
  · cases h1 : v[1] with
    | true => rw [s.access_softReset h1]; rfl
    | false =>
      have h0 : v[0] = false := hv.resolve_left (by simp [h1])
      rw [s.access_irqen h1, Regs.irq, h0, Bool.false_and]
  · rw [cmdWriteIssues s v hb, Regs.irq, Bool.and_false]
  · rw [s.access_irqen (by decide), State.access_irqen _ (by decide)]
    rfl
  · obtain ⟨t, e, -, hdone, fr, -⟩ := exec_completes i s
    exact ⟨t, e, by rw [Regs.irq, fr.irqen, hdone, Bool.and_true]⟩

end Sys2Proof.Machine

/-! PROOFS. Reset (spec/70_reset_and_hazards.md R230-R232): the reset state meets the invariant, and both resets give it. -/

namespace Sys2Proof.Machine

/-- Settles O11: the invariant speaks of the registers alone, and these hold `ResetState`. -/
theorem invariantHoldsAtReset : Obligations.InvariantHoldsAtReset :=
  State.inv_of_regs_reset rfl

/-- R232's table, read off the definition of `ResetState`: a file written out entry by entry is the replicated value. -/
theorem Regs.reset_eq_table :
    Regs.reset =
      { f := #v[0, 0, 0, 0, 0, 0, 0, 0, 0, 0, 0, 0, 0, 0, 0, 0]
        p := #v[.inf, .inf, .inf, .inf, .inf, .inf, .inf, .inf]
        j := #v[⟨0, 0, 0⟩, ⟨0, 0, 0⟩, ⟨0, 0, 0⟩, ⟨0, 0, 0⟩]
        ksign := false, kmag := 0, cbuf := Vector.replicate 33 0
        irqen := false, busy := false, done := false, bool := false, ovr := false, errcode := 0, cmd := 0 } := rfl

/-- Settles O50: a pulse of rst_n is one step (R230), the write of CTRL is the soft reset (R231), and the values are R232's. -/
theorem resetGivesTheResetState : Obligations.ResetGivesTheResetState := by
  refine ⟨fun s rest h => ⟨_, step_of_agenda_hwReset h, State.hwReset_toRegs _⟩, fun s v hv => ?_, Regs.reset_eq_table, rfl⟩
  rw [State.access_softReset s hv]
  exact ⟨rfl, rfl⟩

end Sys2Proof.Machine
